-- ==== Sys2Proof/Word.lean ====
section
/-! DEFINITION. The word types of the block: bytes on the bus, 16-bit sensor registers, 32-bit command words
(00_scope R8, 20_memory R55, 30_encoding R80). -/

namespace Sys2Proof

/-- A byte, 8 bits (R8). -/
abbrev Byte := BitVec 8

/-- A sensor register value or a 16-bit working register (R26, R29). -/
abbrev Word := BitVec 16

/-- The 32-bit command word `W` (R80). -/
abbrev CmdWord := BitVec 32

end Sys2Proof
end

