-- ==== Sys2Proof/Config.lean ====
section
/-! DEFINITION. What the spec leaves to one implementation or leaves free: the named parameters of 00_scope R7 and the
free values (00_scope R9 `any16`, `any32`; R10: the environment's answers). Each is a constant without a body, so a
proof holds whatever it is. -/

namespace Sys2Proof.Config

/-! ## The parameters of R7 (DESIGN CHOICE, notes/assumptions/3.md: constants of Config, safe) -/

/-- `DEV_ADDR`: the sensor's fixed bus address; its width is not stated, so it is a plain number (R7, R51). -/
opaque devAddr : Nat

/-- `PROBE_TRIALS - 1`: what the implementation adds to the one probe attempt that R7 (D8) demands. -/
opaque extraProbeTrials : Nat

/-- `PROBE_TRIALS`: the trial count of the presence probe, at least 1 (R7, R110). -/
def probeTrials : Nat := extraProbeTrials + 1

/-- `PROBE_TIMEOUT`: the bound of one probe attempt, in an unstated unit of time (R7, R195). -/
opaque probeTimeout : Nat

/-- `XFER_WAIT`: the bound of one register read or write (R7, R195). -/
opaque xferWait : Nat

/-- `POLL_TRIALS - 1`: what the implementation adds to the one data-ready trial that R7 (D8) demands. -/
opaque extraPollTrials : Nat

/-- `POLL_TRIALS`: the trial count of the data-ready poll, at least 1 (R7, R164). -/
def pollTrials : Nat := extraPollTrials + 1

/-- `POLL_INTERVAL`: the delay between two data-ready trials (R7, R195). -/
opaque pollInterval : Nat

/-- `CYC_FORCED`: the code of the cycle enumerant that GET_TEMP forces (R7, R32, D6), left open here. -/
opaque cycForced : BitVec 3

/-- `DEVICE_ID_EXPECTED`: used by no rule (R7, R36). -/
opaque deviceIdExpected : Word

/-! ## The environment's answers beyond the script (R10; notes/assumptions/2.md) -/

/-- Whether answer number `k` of the environment is the good one (`Ready`, `Ok`) rather than `NotReady` or `Fail`. -/
opaque envOk : Nat → Bool

/-- Byte `i` of answer number `k` of the environment, when that answer is a register read's `Ok(b)`. -/
opaque envByte : Nat → Nat → Byte

/-! ## Free values (R9 `any16`, `any32`; R89, U18; notes/assumptions/5.md and 6.md), one per draw number -/

/-- An undefined `RSP.flag`. -/
opaque anyFlag : Nat → Bool

/-- An undefined 32-bit value (`any32`). -/
opaque any32 : Nat → BitVec 32

/-- An undefined 16-bit value (`any16`). -/
opaque any16 : Nat → Word

/-- An undefined byte string. -/
opaque anyBytes : Nat → List Byte

end Sys2Proof.Config
end

