-- ==== Sys2Proof/Syntax.lean ====
section
/-! DEFINITION. The eight host commands and the reserved range (30_encoding R81), one constructor per row of
spec/opcode_table.json, and the encoded form of a command: the word with the byte string beside it (R80, R88). -/

namespace Sys2Proof

/-- The four enumerants of the `MODE` field (10_state R31), in code order. -/
inductive Mode where
  | continuous
  | shutdown
  | continuousAlt
  | oneShot
deriving DecidableEq, Repr

/-- The commands. `hv`, `bv`, `tv` are the valid bits of R82 (true = 1), `reg` the register offset of R83, `len` the
signed length byte of R84, `m` and `c` the enumerants of R85, `wdata` the byte string of R88. -/
inductive Instr where
  | init (hv tv : Bool)
  | isPresent (hv : Bool)
  | readRegs (hv bv : Bool) (reg len : Byte)
  | writeRegs (hv bv : Bool) (reg len : Byte) (wdata : List Byte)
  | setMode (hv : Bool) (m : Mode)
  | setCycle (hv : Bool) (c : BitVec 3)
  | isConvDone (hv : Bool)
  | getTemp (hv : Bool)
  | reserved
deriving DecidableEq, Repr

/-- A command as the host sends it (00_scope R12): one word and, for WRITE_REGS, the write bytes beside it. -/
structure Command where
  word : CmdWord
  wdata : List Byte
deriving DecidableEq, Repr

end Sys2Proof
end

