-- ==== Sys2Proof/WellFormed.lean ====
section
/-! DEFINITION. Which commands the encoding admits: every field is as wide as its place in the word, so only the byte
string of WRITE_REGS has a condition (30_encoding R88, 41_register_access R124). -/

namespace Sys2Proof

/-- Whether a WRITE_REGS with these operands reads its byte string: R88 (`BV = 1`, `len >= 1`) and R124 ("WDATA is not
read when the argument check fails", so `HV = 1` too). -/
def wdataRead (hv bv : Bool) (len : Byte) : Bool :=
  hv && bv && decide (0 < len.toInt)

/-- How many bytes of WDATA a WRITE_REGS with these operands takes: exactly `len` when they are read, else none (R88). -/
def wdataCount (hv bv : Bool) (len : Byte) : Nat :=
  if wdataRead hv bv len then len.toInt.toNat else 0

/-- A command the encoding can express. -/
def Instr.wellFormed : Instr → Bool
  | .init _ _ => true
  | .isPresent _ => true
  | .readRegs _ _ _ _ => true
  | .writeRegs hv bv _ len wdata => wdata.length == wdataCount hv bv len
  | .setMode _ _ => true
  | .setCycle _ _ => true
  | .isConvDone _ => true
  | .getTemp _ => true
  | .reserved => true

end Sys2Proof
end

