-- ==== Sys2Proof/Decode.lean ====
section
/-! DEFINITION. The decoder of the command port, total on every word and byte string, and the encoder
(30_encoding R80 to R88, R98). The command is selected by `W[31:28]` alone (R81); unused fields are ignored (R86). -/

namespace Sys2Proof

/-- Why the port rejects what the host offers. -/
inductive DecodeError where
  /-- A WRITE_REGS that reads WDATA came with a byte string that does not have exactly `len` bytes (R88). -/
  | wdataLength
deriving DecidableEq, Repr

/-! ## The fields of the word (R80) -/

/-- `OP`, bits 31 to 28. -/
def opField (w : CmdWord) : BitVec 4 := w.extractLsb' 28 4

/-- `HV`, bit 27. -/
def hvBit (w : CmdWord) : Bool := w.getLsbD 27

/-- `BV`, bit 26. -/
def bvBit (w : CmdWord) : Bool := w.getLsbD 26

/-- `TV`, bit 25. -/
def tvBit (w : CmdWord) : Bool := w.getLsbD 25

/-- `REG`, bits 23 to 16. -/
def regField (w : CmdWord) : Byte := w.extractLsb' 16 8

/-- `LEN`, bits 15 to 8. -/
def lenField (w : CmdWord) : Byte := w.extractLsb' 8 8

/-- `ARG`, bits 7 to 0. -/
def argField (w : CmdWord) : Byte := w.extractLsb' 0 8

/-- `ARG[1:0]`, the operand of SET_MODE (R85). -/
def modeField (w : CmdWord) : BitVec 2 := w.extractLsb' 0 2

/-- `ARG[2:0]`, the operand of SET_CYCLE (R85). -/
def cycField (w : CmdWord) : BitVec 3 := w.extractLsb' 0 3

/-- The code of a `MODE` enumerant (10_state R31). -/
def Mode.code : Mode → BitVec 2
  | .continuous => 0
  | .shutdown => 1
  | .continuousAlt => 2
  | .oneShot => 3

/-- The `MODE` enumerant of a code; all four codes are legal (10_state R31). -/
def Mode.ofCode (m : BitVec 2) : Mode :=
  match m.toNat with
  | 0 => .continuous
  | 1 => .shutdown
  | 2 => .continuousAlt
  | _ => .oneShot

/-! ## Decoding -/

/-- A WRITE_REGS word with the byte string beside it (R88): the string is taken when it is read and has `len` bytes. -/
def decodeWriteRegs (w : CmdWord) (wdata : List Byte) : Except DecodeError Instr :=
  if wdataRead (hvBit w) (bvBit w) (lenField w) then
    if wdata.length == wdataCount (hvBit w) (bvBit w) (lenField w) then
      .ok (.writeRegs (hvBit w) (bvBit w) (regField w) (lenField w) wdata)
    else
      .error .wdataLength
  else
    .ok (.writeRegs (hvBit w) (bvBit w) (regField w) (lenField w) [])

/-- The opcode assignment of R81. -/
def decode (c : Command) : Except DecodeError Instr :=
  match (opField c.word).toNat with
  | 0 => .ok (.init (hvBit c.word) (tvBit c.word))
  | 1 => .ok (.isPresent (hvBit c.word))
  | 2 => .ok (.readRegs (hvBit c.word) (bvBit c.word) (regField c.word) (lenField c.word))
  | 3 => decodeWriteRegs c.word c.wdata
  | 4 => .ok (.setMode (hvBit c.word) (Mode.ofCode (modeField c.word)))
  | 5 => .ok (.setCycle (hvBit c.word) (cycField c.word))
  | 6 => .ok (.isConvDone (hvBit c.word))
  | 7 => .ok (.getTemp (hvBit c.word))
  | _ => .ok .reserved

/-! ## Encoding: the canonical word, every ignored bit 0 (R86, R98) -/

/-- The word with the fields of R80 in their places and bit 24 zero. -/
def pack (op : BitVec 4) (hv bv tv : Bool) (reg len arg : Byte) : CmdWord :=
  op ++ BitVec.ofBool hv ++ BitVec.ofBool bv ++ BitVec.ofBool tv ++ (0 : BitVec 1) ++ reg ++ len ++ arg

/-- The opcode of a command (R81); the reserved range is written with its first code, 8. -/
def Instr.opcode : Instr → BitVec 4
  | .init _ _ => 0
  | .isPresent _ => 1
  | .readRegs _ _ _ _ => 2
  | .writeRegs _ _ _ _ _ => 3
  | .setMode _ _ => 4
  | .setCycle _ _ => 5
  | .isConvDone _ => 6
  | .getTemp _ => 7
  | .reserved => 8

/-- The command as the host sends it (R80, R88, R98). -/
def encode (i : Instr) : Command :=
  match i with
  | .init hv tv => ⟨pack i.opcode hv false tv 0 0 0, []⟩
  | .isPresent hv => ⟨pack i.opcode hv false false 0 0 0, []⟩
  | .readRegs hv bv reg len => ⟨pack i.opcode hv bv false reg len 0, []⟩
  | .writeRegs hv bv reg len wdata => ⟨pack i.opcode hv bv false reg len 0, wdata⟩
  | .setMode hv m => ⟨pack i.opcode hv false false 0 0 (m.code.setWidth 8), []⟩
  | .setCycle hv c => ⟨pack i.opcode hv false false 0 0 (c.setWidth 8), []⟩
  | .isConvDone hv => ⟨pack i.opcode hv false false 0 0 0, []⟩
  | .getTemp hv => ⟨pack i.opcode hv false false 0 0 0, []⟩
  | .reserved => ⟨pack i.opcode false false false 0 0 0, []⟩

/-! ## The opcode table as data (spec/opcode_table.json; R81) -/

/-- One row of the table: a word belongs to it when its bits under `mask` are those of `pattern`. -/
structure OpcodeRow where
  mnemonic : String
  mask : CmdWord
  pattern : CmdWord
deriving DecidableEq, Repr

/-- The nine rows. -/
def opcodeRows : List OpcodeRow :=
  [⟨"INIT", 0xF0000000, 0x00000000⟩,
   ⟨"IS_PRESENT", 0xF0000000, 0x10000000⟩,
   ⟨"READ_REGS", 0xF0000000, 0x20000000⟩,
   ⟨"WRITE_REGS", 0xF0000000, 0x30000000⟩,
   ⟨"SET_MODE", 0xF0000000, 0x40000000⟩,
   ⟨"SET_CYCLE", 0xF0000000, 0x50000000⟩,
   ⟨"IS_CONV_DONE", 0xF0000000, 0x60000000⟩,
   ⟨"GET_TEMP", 0xF0000000, 0x70000000⟩,
   ⟨"RESERVED", 0x80000000, 0x80000000⟩]

/-- Whether a word belongs to a row. -/
def OpcodeRow.has (r : OpcodeRow) (w : CmdWord) : Bool := (w &&& r.mask) == r.pattern

/-- The table's mnemonic of a command (R81). -/
def Instr.mnemonic : Instr → String
  | .init _ _ => "INIT"
  | .isPresent _ => "IS_PRESENT"
  | .readRegs _ _ _ _ => "READ_REGS"
  | .writeRegs _ _ _ _ _ => "WRITE_REGS"
  | .setMode _ _ => "SET_MODE"
  | .setCycle _ _ => "SET_CYCLE"
  | .isConvDone _ => "IS_CONV_DONE"
  | .getTemp _ => "GET_TEMP"
  | .reserved => "RESERVED"

/-- The bits of a word that its command uses, by `OP` (R81, R86): `OP` and the listed fields; every other bit is
ignored. For the reserved range only bit 31 is used. -/
def usedBits (w : CmdWord) : CmdWord :=
  match (opField w).toNat with
  | 0 => 0xFA000000
  | 1 => 0xF8000000
  | 2 => 0xFCFFFF00
  | 3 => 0xFCFFFF00
  | 4 => 0xF8000003
  | 5 => 0xF8000007
  | 6 => 0xF8000000
  | 7 => 0xF8000000
  | _ => 0x80000000

/-! ## Words numbered as the opcode table numbers them (notes/assumptions/12.md) -/

/-- The command whose bits are the low `nbits` bits of `w`: the word is bits 31 to 0 and byte `k` of WDATA is bits
`32 + 8 k` and up, as many bytes as the word asks for; bits above `nbits` are 0. -/
def tableCommand (nbits w : Nat) : Command :=
  let v := w % 2 ^ nbits
  let word := BitVec.ofNat 32 v
  let n := if (opField word).toNat = 3 then wdataCount (hvBit word) (bvBit word) (lenField word) else 0
  ⟨word, (List.range n).map fun k => BitVec.ofNat 8 (v / 2 ^ (32 + 8 * k))⟩

/-- The command the decoder reads from a table word. -/
def decodeTableWord (nbits w : Nat) : Option Instr :=
  (decode (tableCommand nbits w)).toOption

end Sys2Proof
end

