-- ==== Sys2Proof/Machine/State.lean ====
section
/-! DEFINITION. The block's state (10_state R20 to R27), the inputs it reads (00_scope R10, R12), the record of what it
has done (00_scope R6), its reset value (10_state R41), and the reasons a step can stop. -/

namespace Sys2Proof.Machine

/-- The phase register `ph` (10_state R24). -/
inductive Phase where
  | idle
  | configuringMode
  | configuringCycle
  | polling
  | reading
  | converted
  | unavailable
  | busy
deriving DecidableEq, Repr

/-- The status codes of a response (30_encoding R89). Codes 5 to 7 are never produced (notes/assumptions/20.md). -/
inductive Status where
  | ok
  | argErr
  | xportErr
  | verifyErr
  | unavailable
deriving DecidableEq, Repr

/-- The response register `RSP` (10_state R27, 30_encoding R89). -/
structure Rsp where
  st : Status
  flag : Bool
  tempF : BitVec 32
  tempQ : Word
  rdata : List Byte
deriving DecidableEq, Repr

/-- The working registers (10_state R26): they carry nothing from one command to the next. -/
structure Work where
  cur : Word
  new : Word
  chk : Word
  cfg : Word
  rx0 : Byte
  rx1 : Byte
  tx0 : Byte
  tx1 : Byte
  raw : Word
  pcnt : Nat
  wcnt : Nat
deriving DecidableEq, Repr

/-- One answer of the environment to one bus event (20_memory R52 to R54): `ok` is `Ready` or `Ok`, not `ok` is
`NotReady` or `Fail`; `data` are the bytes of a read's `Ok(b)`, in wire order. -/
structure Answer where
  ok : Bool
  data : List Byte
deriving DecidableEq, Repr

/-- What the outside world can do at the host's side (00_scope R12, 70_reset_and_hazards R210, R211). -/
inductive HostInput where
  /-- The host offers a command. -/
  | command (c : Command)
  /-- The host offers a command, and a reset comes during it: after `k` of its transport events, or just before its end
  when it has no more (R211). -/
  | commandThenReset (c : Command) (k : Nat)
  /-- A reset while no command runs (R210). -/
  | reset
deriving DecidableEq, Repr

/-- One thing the block does, as seen from outside or at `ph`: a value `ph` takes (R24), a transport event with the
arguments presented and the answer given (R50 to R54, R195), a response (R12), a reset (R210). -/
inductive Entry where
  | phase (p : Phase)
  | probe (dev timeout : Nat) (ready : Bool)
  | memRead (dev : Nat) (reg : Byte) (n wait : Nat) (answer : Option (List Byte))
  | memWrite (dev : Nat) (reg : Byte) (n : Nat) (bytes : List Byte) (wait : Nat) (ok : Bool)
  | sleep (interval : Nat)
  | response (r : Rsp)
  | reset
deriving DecidableEq, Repr

/-- The state. The first five fields are the block's own (R20); the others are the model's: the inputs not yet taken,
the counters that index free values, and the log, oldest entry first. -/
structure State where
  /-- Availability flag (R21). -/
  avail : Bool
  /-- Binding flag (R22). -/
  bound : Bool
  /-- Phase register (R24). -/
  ph : Phase
  /-- Working registers (R26). -/
  work : Work
  /-- Response register (R27). -/
  rsp : Rsp
  /-- Host inputs not yet taken, next first (notes/assumptions/7.md). -/
  host : List HostInput
  /-- The environment's next answers, next first (notes/assumptions/2.md). -/
  env : List Answer
  /-- How many answers have been used. -/
  answered : Nat
  /-- How many free values have been drawn (notes/assumptions/5.md). -/
  draws : Nat
  /-- What the block has done, oldest first (notes/assumptions/11.md). -/
  log : List Entry
deriving DecidableEq, Repr

/-- Why the machine stops. -/
inductive Fault where
  /-- `UNBOUND` (60_exceptions R193): raised by a procedure about to issue `Probe`, `MemRead` or `MemWrite` while
  `bound = 0`. Safe: a faulted run proves nothing. -/
  | unbound
  /-- Raised by the step when `ph` is not `IDLE` (00_scope R12, U17: a command offered while the block is busy is not
  accepted, and this model has no move for it; a big step never leaves the block there). Safe. -/
  | busy
deriving DecidableEq, Repr

/-- Why the machine gives no meaning to an input. -/
inductive Refusal where
  /-- Raised by an arm of `exec` whose instruction has no meaning yet. Safe. -/
  | notModelled (mnemonic : String)
  /-- Raised by the step when the port rejects a WRITE_REGS whose byte string does not have `len` bytes
  (30_encoding R88; notes/assumptions/8.md). Safe. -/
  | wdataLength
deriving DecidableEq, Repr

/-- The working registers after reset: unspecified by R41. DESIGN CHOICE: zero (notes/assumptions/4.md, unsafe). -/
def Work.reset : Work :=
  { cur := 0, new := 0, chk := 0, cfg := 0, rx0 := 0, rx1 := 0, tx0 := 0, tx1 := 0, raw := 0, pcnt := 0, wcnt := 0 }

/-- `RSP` after reset: unspecified by R41. DESIGN CHOICE: zero (notes/assumptions/4.md, unsafe). -/
def Rsp.reset : Rsp :=
  { st := .ok, flag := false, tempF := 0, tempQ := 0, rdata := [] }

/-- The machine right after reset (R41): unavailable, not bound, idle; no input pending, nothing done yet. -/
def State.reset : State :=
  { avail := false, bound := false, ph := .idle, work := Work.reset, rsp := Rsp.reset,
    host := [], env := [], answered := 0, draws := 0, log := [] }

end Sys2Proof.Machine
end

