-- ==== Sys2Proof/Machine/Operands.lean ====
section
/-! DEFINITION. The register map and field constants, byte order, and operand assembly (10_state R24, R29 to R32,
20_memory R55, 30_encoding R84, R89, R91 to R93). -/

namespace Sys2Proof.Machine

/-! ## The sensor's register offsets (R29) -/

/-- `REG_RESULT`. -/
def regResult : Byte := 0x00

/-- `REG_CONFIG`. -/
def regConfig : Byte := 0x01

/-- `REG_HIGH_LIMIT`: no procedure of the block names it (R35). -/
def regHighLimit : Byte := 0x02

/-- `REG_LOW_LIMIT`: no procedure of the block names it (R35). -/
def regLowLimit : Byte := 0x03

/-- `REG_DEVICE_ID`: no procedure of the block names it (R36). -/
def regDeviceId : Byte := 0x0F

/-! ## The fields of Config (R30, R91) -/

/-- `DR_MASK`, bit 13: data-ready. -/
def drMask : Word := 0x2000

/-- `MODE_MASK`, bits 11 to 10. -/
def modeMask : Word := 0x0C00

/-- `CYC_MASK`, bits 9 to 7. -/
def cycMask : Word := 0x0380

/-- `MODE_SHIFT`. -/
def modeShift : Nat := 10

/-- `CYC_SHIFT`. -/
def cycShift : Nat := 7

/-- The requested bits of SET_MODE: the code moved to bits 11 to 10 (R31, R92). -/
def modeBits (m : Mode) : Word := m.code.setWidth 16 <<< modeShift

/-- The requested bits of SET_CYCLE: the code moved to bits 9 to 7 (R32, R92). -/
def cycBits (c : BitVec 3) : Word := c.setWidth 16 <<< cycShift

/-- `ApplyField(cur, mask, want) = cur | (want & mask)`: it sets bits and never clears one (R93, R134). -/
def applyField (cur mask want : Word) : Word := cur ||| (want &&& mask)

/-! ## Byte order and lengths -/

/-- The 16-bit value of two bytes in wire order, high byte first (R55, R94). -/
def joinBytes (b0 b1 : Byte) : Word := (b0.setWidth 16 <<< 8) ||| b1.setWidth 16

/-- Bits 15 to 8 of a value: the byte that crosses the bus first (R55, R90). -/
def hiByte (v : Word) : Byte := v.extractLsb' 8 8

/-- Bits 7 to 0 of a value: the byte that crosses the bus second (R55, R90). -/
def loByte (v : Word) : Byte := v.extractLsb' 0 8

/-- `len = int8(W[15:8])` (R84). -/
def lenInt (len : Byte) : Int := len.toInt

/-! ## The codes of named values -/

/-- The 3-bit code of a phase (R24). -/
def Phase.code : Phase → BitVec 3
  | .idle => 0
  | .configuringMode => 1
  | .configuringCycle => 2
  | .polling => 3
  | .reading => 4
  | .converted => 5
  | .unavailable => 6
  | .busy => 7

/-- The 3-bit code of a status (R89). -/
def Status.code : Status → BitVec 3
  | .ok => 0
  | .argErr => 1
  | .xportErr => 2
  | .verifyErr => 3
  | .unavailable => 4

end Sys2Proof.Machine
end

