-- ==== Sys2Proof/Machine/Flags.lean ====
section
/-! DEFINITION. The tests of the codec (30_encoding R93). The block has no condition codes (10_state R28): what plays the
part of a flag is `avail`, `RSP.st`, `RSP.flag`, and the data-ready bit of the sensor's Config register. -/

namespace Sys2Proof.Machine

/-- `FieldEq(v, mask, want) = ((v & mask) == want)`: only the masked bits are compared (R93, R133). -/
def fieldEq (v mask want : Word) : Bool := (v &&& mask) == want

/-- `IsReady(v) = ((v & DR_MASK) != 0)`: bit 13 (R93, 43_data_ready R150). -/
def isReady (v : Word) : Bool := (v &&& drMask) != 0

end Sys2Proof.Machine
end

