-- ==== Sys2Proof/Machine/Ops.lean ====
section
/-! DEFINITION. The named operations every command is made of (00_scope R9): updates of the state, the four transport
events, the end of a command and the raising of an error, and the register read and write procedures. -/

namespace Sys2Proof.Machine

/-! ## Updates -/

/-- Append to the log. -/
def State.record (s : State) (e : Entry) : State := { s with log := s.log ++ [e] }

/-- `ph <- p` (R9, R24): the log keeps the values `ph` takes. -/
def State.setPh (s : State) (p : Phase) : State := { s with ph := p, log := s.log ++ [.phase p] }

/-- `avail <- v` (R21). -/
def State.setAvail (s : State) (v : Bool) : State := { s with avail := v }

/-- `bound <- v` (R22). -/
def State.setBound (s : State) (v : Bool) : State := { s with bound := v }

/-- Write the working registers (R26). -/
def State.setWork (s : State) (w : Work) : State := { s with work := w }

/-- Write the response register (R27). -/
def State.setRsp (s : State) (r : Rsp) : State := { s with rsp := r }

/-- What is left of the host's inputs. -/
def State.setHost (s : State) (h : List HostInput) : State := { s with host := h }

/-- One free value has been drawn. -/
def State.tookDraw (s : State) : State := { s with draws := s.draws + 1 }

/-! ## The environment's answers (00_scope R10; notes/assumptions/2.md) -/

/-- Whether the next answer is the good one: the script's, or a free value where the script is used up. -/
def State.answerOk (s : State) : Bool :=
  match s.env with
  | a :: _ => a.ok
  | [] => Config.envOk s.answered

/-- Byte `i` of the next answer: the script's, or a free value where the script says nothing. -/
def State.answerByte (s : State) (i : Nat) : Byte :=
  match s.env with
  | a :: _ => (a.data[i]?).getD (Config.envByte s.answered i)
  | [] => Config.envByte s.answered i

/-- The `n` bytes of the next answer, in wire order (R52: "a string of exactly `n` bytes"). -/
def State.answerBytes (s : State) (n : Nat) : List Byte := (List.range n).map s.answerByte

/-- The next answer has been used. -/
def State.popAnswer (s : State) : State := { s with env := s.env.tail, answered := s.answered + 1 }

/-! ## The four transport events (20_memory R50 to R54, 60_exceptions R195) -/

/-- `Probe()`: true is `Ready` (R54). -/
def probe (s : State) : Bool × State :=
  (s.answerOk, s.popAnswer.record (.probe Config.devAddr Config.probeTimeout s.answerOk))

/-- What `MemRead(reg, n)` is answered: `Ok(b)` with exactly `n` bytes, or `Fail` (R52). -/
def State.readAnswer (s : State) (n : Nat) : Option (List Byte) :=
  if s.answerOk then some (s.answerBytes n) else none

/-- `MemRead(reg, n)` (R52). -/
def memRead (reg : Byte) (n : Nat) (s : State) : Option (List Byte) × State :=
  (s.readAnswer n,
    s.popAnswer.record (.memRead Config.devAddr reg n Config.xferWait (s.readAnswer n)))

/-- `MemWrite(reg, n, b)`: true is `Ok` (R53). -/
def memWrite (reg : Byte) (n : Nat) (b : List Byte) (s : State) : Bool × State :=
  (s.answerOk, s.popAnswer.record (.memWrite Config.devAddr reg n b Config.xferWait s.answerOk))

/-- `Sleep()`: it has no answer and changes no state of the block (R9). -/
def sleep (s : State) : State := s.record (.sleep Config.pollInterval)

/-! ## The end of a command -/

/-- The response a command gives: the fields it defines, and a free value in each field it does not (R89, U18). -/
def response (st : Status) (flag : Option Bool) (temp : Option (BitVec 32 × Word)) (rdata : Option (List Byte))
    (draw : Nat) : Rsp :=
  { st := st
    flag := flag.getD (Config.anyFlag draw)
    tempF := (temp.map Prod.fst).getD (Config.any32 draw)
    tempQ := (temp.map Prod.snd).getD (Config.any16 draw)
    rdata := rdata.getD (Config.anyBytes draw) }

/-- A command produces its one response and `ph` returns to `IDLE` (00_scope R12, R13, 10_state R25, R27). -/
def respond (r : Rsp) (s : State) : State :=
  ((s.setRsp r).tookDraw.record (.response r)).setPh .idle

/-- The end of a command with the response fields it defines. -/
def finish (st : Status) (flag : Option Bool) (temp : Option (BitVec 32 × Word)) (rdata : Option (List Byte))
    (s : State) : State :=
  respond (response st flag temp rdata s.draws) s

/-- Raising an error, the block's "trap entry" (60_exceptions R190): `RSP.st` takes the code, the other response fields
are undefined, `ph <- IDLE`. Nothing is saved and no handler runs, so there is no return from it (R191). -/
def raiseError (e : Status) (s : State) : State := finish e none none none s

/-! ## Procedures (00_scope R9) -/

/-- How a procedure ends: `return v`, `raise E`, or the model fault of R193. -/
inductive Proc (α : Type) where
  | ret (v : α) (s : State)
  | raise (e : Status) (s : State)
  | fault (f : Fault)
deriving DecidableEq, Repr

/-- Go on with the value of a procedure; an error or a fault ends the caller with it. -/
def Proc.andThen {α β : Type} (p : Proc α) (f : α → State → Proc β) : Proc β :=
  match p with
  | .ret v s => f v s
  | .raise e s => .raise e s
  | .fault x => .fault x

/-- A command whose response comes from a procedure: `onRet` ends it on a return, `raiseError` on an error (R190). -/
def Proc.toOutcome {α : Type} (p : Proc α) (onRet : α → State → State) : Host.Outcome State Fault Refusal :=
  match p with
  | .ret v s => .next (onRet v s)
  | .raise e s => .next (raiseError e s)
  | .fault x => .fault x

/-- The argument check of R120 and R121, before everything else (R122). -/
def argsBad (hv bv : Bool) (len : Int) : Bool := !hv || !bv || decide (len ≤ 0)

/-- `RegRead(hv, bv, reg, len)` (41_register_access R120). -/
def regRead (hv bv : Bool) (reg : Byte) (len : Int) (s : State) : Proc (List Byte) :=
  if argsBad hv bv len then .raise .argErr s
  else if !s.bound then .fault .unbound
  else
    match memRead reg len.toNat s with
    | (some b, s') => .ret b s'
    | (none, s') => .raise .xportErr s'

/-- `RegWrite(hv, bv, reg, len, b)` (41_register_access R121). -/
def regWrite (hv bv : Bool) (reg : Byte) (len : Int) (b : List Byte) (s : State) : Proc Unit :=
  if argsBad hv bv len then .raise .argErr s
  else if !s.bound then .fault .unbound
  else
    match memWrite reg len.toNat b s with
    | (true, s') => .ret () s'
    | (false, s') => .raise .xportErr s'

/-- The block's own 2-byte read: `rx` takes the two bytes, the value is big-endian (R26, R55, R58, R122). -/
def readPair (hv : Bool) (reg : Byte) (s : State) : Proc Word :=
  (regRead hv true reg 2 s).andThen fun b s =>
    .ret (joinBytes (b.getD 0 0) (b.getD 1 0))
      (s.setWork { s.work with rx0 := b.getD 0 0, rx1 := b.getD 1 0 })

/-- The block's own 2-byte write of `v`: `tx` takes the two bytes, high byte first (R26, R55, R58, R122). -/
def writePair (hv : Bool) (reg : Byte) (v : Word) (s : State) : Proc Unit :=
  regWrite hv true reg 2 [hiByte v, loByte v]
    (s.setWork { s.work with tx0 := hiByte v, tx1 := loByte v })

end Sys2Proof.Machine
end

