-- ==== Sys2Proof/Machine/Probe.lean ====
section
/-! DEFINITION. INIT and IS_PRESENT (40_presence_init R110 to R113). -/

namespace Sys2Proof.Machine

/-- The loop of R110 with `k` attempts left: stop at the first `Ready`, or when the budget is used up. -/
def probeFrom : Nat → State → Bool × State
  | 0, s => (false, s)
  | k + 1, s =>
    match probe (s.setWork { s.work with pcnt := s.work.pcnt + 1 }) with
    | (true, s') => (true, s')
    | (false, s') => probeFrom k s'

/-- `ProbeLoop()` with a budget of `trials` attempts (R110). -/
def probeLoop (trials : Nat) (s : State) : Bool × State :=
  probeFrom trials (s.setWork { s.work with pcnt := 0 })

/-- INIT with a given trial count: bind, probe, record (R112). -/
def initWith (trials : Nat) (hv tv : Bool) (s : State) : Host.Outcome State Fault Refusal :=
  let s := s.setPh .busy
  if !hv || !tv then .next (raiseError .argErr s)
  else
    let (found, s) := probeLoop trials (s.setBound true)
    .next (finish (if found then .ok else .unavailable) (some found) none none (s.setAvail found))

/-- INIT (R112). -/
def execInit (hv tv : Bool) (s : State) : Host.Outcome State Fault Refusal :=
  initWith Config.probeTrials hv tv s

/-- IS_PRESENT with a given trial count (R111): a null handle answers false with no event. -/
def isPresentWith (trials : Nat) (hv : Bool) (s : State) : Host.Outcome State Fault Refusal :=
  let s := s.setPh .busy
  if !hv then .next (finish .ok (some false) none none s)
  else if !s.bound then .fault .unbound
  else
    let (found, s) := probeLoop trials s
    .next (finish .ok (some found) none none s)

/-- IS_PRESENT (R111). -/
def execIsPresent (hv : Bool) (s : State) : Host.Outcome State Fault Refusal :=
  isPresentWith Config.probeTrials hv s

end Sys2Proof.Machine
end

