-- ==== Sys2Proof/Machine/Registers.lean ====
section
/-! DEFINITION. READ_REGS and WRITE_REGS (41_register_access R123, R124). -/

namespace Sys2Proof.Machine

/-- READ_REGS (R123): the bytes go to `RSP.rdata` as they came over the wire. -/
def execReadRegs (hv bv : Bool) (reg len : Byte) (s : State) : Host.Outcome State Fault Refusal :=
  (regRead hv bv reg (lenInt len) (s.setPh .busy)).toOutcome fun b s => finish .ok none none (some b) s

/-- WRITE_REGS (R124): the bytes go out as given, with no mask and no read-back. -/
def execWriteRegs (hv bv : Bool) (reg len : Byte) (wdata : List Byte) (s : State) :
    Host.Outcome State Fault Refusal :=
  (regWrite hv bv reg (lenInt len) wdata (s.setPh .busy)).toOutcome fun _ s => finish .ok none none none s

end Sys2Proof.Machine
end

