-- ==== Sys2Proof/Machine/Reserved.lean ====
section
/-! DEFINITION. The reserved opcodes 8 to 15 (30_encoding R87). -/

namespace Sys2Proof.Machine

/-- A reserved opcode: `ARG_ERR`, no transport event, `ph` passes through `BUSY` (R87). -/
def execReserved (s : State) : Host.Outcome State Fault Refusal :=
  .next (raiseError .argErr (s.setPh .busy))

end Sys2Proof.Machine
end

