-- ==== Sys2Proof/Machine/Convert.lean ====
section
/-! DEFINITION. The temperature converter (30_encoding R94 to R96, 44_temperature R166, R167): degrees Celsius are the
signed sample times 2^-7, carried as Q8.7 and as a binary32 pattern, both exact. -/

namespace Sys2Proof.Machine

/-- `EncodeF32(raw)`: the binary32 pattern of `raw / 128` for `-32768 <= raw <= 32767` (R95). The layout (1 sign bit, 8
exponent bits with bias 127, 23 fraction bits) is general knowledge the spec marks so (notes/assumptions/21.md). -/
def encodeF32 (raw : Int) : BitVec 32 :=
  if raw = 0 then 0
  else
    let s := if raw < 0 then 1 else 0
    let a := raw.natAbs
    let p := Nat.log2 a
    let e := 120 + p
    let m := (a - 2 ^ p) * 2 ^ (23 - p)
    BitVec.ofNat 32 (s * 2 ^ 31 + e * 2 ^ 23 + m)

/-- `temp_f` of a raw 16-bit sample: `EncodeF32(int16(raw))` (R95, R166). -/
def tempF32 (raw : Word) : BitVec 32 := encodeF32 raw.toInt

/-- The sentinel -255 as `temp_f` (R96). -/
def sentinelF : BitVec 32 := 0xC37F0000

/-- The sentinel -255 as `temp_q` (R96). -/
def sentinelQ : Word := 0x8080

/-- What a binary32 pattern of a zero or a normal number stands for, as a rational; used to state that the converter is
exact (R95), by no instruction. -/
def f32Value (f : BitVec 32) : Rat :=
  let s : Rat := if f.getLsbD 31 then -1 else 1
  let e := (f.extractLsb' 23 8).toNat
  let m := (f.extractLsb' 0 23).toNat
  if e = 0 then s * (m : Rat) / 2 ^ 149
  else s * ((2 ^ 23 + m : Nat) : Rat) * 2 ^ e / 2 ^ 150

/-- What a Q8.7 pattern stands for (R95). -/
def q87Value (q : Word) : Rat := (q.toInt : Rat) / 128

end Sys2Proof.Machine
end

