-- ==== Sys2Proof/Machine/DataReady.lean ====
section
/-! DEFINITION. IS_CONV_DONE (43_data_ready R150, R151). -/

namespace Sys2Proof.Machine

/-- `ConvDone(hv)` (R150): bit 13 of Config, and any failure of the read counts as not ready. It never raises. -/
def convDone (hv : Bool) (s : State) : Proc Bool :=
  match readPair hv regConfig s with
  | .ret v s' => .ret (isReady v) (s'.setWork { s'.work with cfg := v })
  | .raise _ s' => .ret false s'
  | .fault f => .fault f

/-- IS_CONV_DONE (R151). -/
def execIsConvDone (hv : Bool) (s : State) : Host.Outcome State Fault Refusal :=
  (convDone hv (s.setPh .busy)).toOutcome fun ready s => finish .ok (some ready) none none s

end Sys2Proof.Machine
end

