-- ==== Sys2Proof/Machine/Setters.lean ====
section
/-! DEFINITION. SET_MODE and SET_CYCLE over the shared read, modify, write, verify procedure
(42_config_setters R130 to R138). -/

namespace Sys2Proof.Machine

/-- Steps 3 and 4 of R130, after a first read of `cur` whose field is not the requested one. -/
def writeAndVerify (hv : Bool) (mask want : Word) (s : State) : Proc Unit :=
  let new := applyField s.work.cur mask want
  (writePair hv regConfig new (s.setWork { s.work with new := new })).andThen fun _ s =>
  (readPair hv regConfig s).andThen fun v s =>
    let s := s.setWork { s.work with chk := v }
    if fieldEq v mask want then .ret () s else .raise .verifyErr s

/-- `SetField(hv, mask, want)` (R130): OR-only (R134), short-circuit when the field already holds the request. -/
def setField (hv : Bool) (mask want : Word) (s : State) : Proc Unit :=
  (readPair hv regConfig s).andThen fun v s =>
    let s := s.setWork { s.work with cur := v }
    if fieldEq v mask want then .ret () s else writeAndVerify hv mask want s

/-- SET_MODE (R131). -/
def execSetMode (hv : Bool) (m : Mode) (s : State) : Host.Outcome State Fault Refusal :=
  (setField hv modeMask (modeBits m) (s.setPh .busy)).toOutcome fun _ s => finish .ok none none none s

/-- SET_CYCLE (R132). -/
def execSetCycle (hv : Bool) (c : BitVec 3) (s : State) : Host.Outcome State Fault Refusal :=
  (setField hv cycMask (cycBits c) (s.setPh .busy)).toOutcome fun _ s => finish .ok none none none s

end Sys2Proof.Machine
end

