-- ==== Sys2Proof/Machine/Temperature.lean ====
section
/-! DEFINITION. GET_TEMP: the acquisition sequence and the conversion (44_temperature R160 to R172). -/

namespace Sys2Proof.Machine

/-- A setter inside GET_TEMP: its outcome, success or any error, is dropped (R162, R163, D12). -/
def Proc.dropOutcome (p : Proc Unit) : Proc Unit :=
  match p with
  | .ret _ s => .ret () s
  | .raise _ s => .ret () s
  | .fault f => .fault f

/-- The loop of R164 with `k` trials left: check, stop on ready, stop after the last trial, else sleep and repeat. -/
def pollFrom : Nat → State → Proc Unit
  | 0, s => .ret () s
  | k + 1, s =>
    (convDone true (s.setWork { s.work with wcnt := s.work.wcnt + 1 })).andThen fun ready s =>
      if ready || k == 0 then .ret () s else pollFrom k (sleep s)

/-- `POLLING` (R164): at most `trials` trials. -/
def poll (trials : Nat) (s : State) : Proc Unit :=
  pollFrom trials ((s.setPh .polling).setWork { s.work with wcnt := 0 })

/-- `READING` (R165): one read of Result, whose failure makes `raw` a free value (`any16`, D13). -/
def readSample (s : State) : Proc Unit :=
  match readPair true regResult (s.setPh .reading) with
  | .ret v s' => .ret () (s'.setWork { s'.work with raw := v })
  | .raise _ s' => .ret () (s'.tookDraw.setWork { s'.work with raw := Config.any16 s'.draws })
  | .fault f => .fault f

/-- The phases from `CONFIGURING_MODE` to `READING` (R162 to R165), with a given trial count and forced cycle. -/
def acquire (trials : Nat) (cyc : BitVec 3) (s : State) : Proc Unit :=
  (setField true modeMask (modeBits .continuous) (s.setPh .configuringMode)).dropOutcome.andThen fun _ s =>
  (setField true cycMask (cycBits cyc) (s.setPh .configuringCycle)).dropOutcome.andThen fun _ s =>
  (poll trials s).andThen fun _ s => readSample s

/-- `CONVERTED` (R166): the response carries the sample and its binary32 pattern, whatever the reads did. -/
def convert (s : State) : State :=
  finish .ok none (some (tempF32 s.work.raw, s.work.raw)) none (s.setPh .converted)

/-- `UNAVAILABLE` (R161): the sentinel, with no transport event. -/
def answerSentinel (s : State) : State :=
  finish .unavailable none (some (sentinelF, sentinelQ)) none (s.setPh .unavailable)

/-- GET_TEMP with a given trial count and forced cycle (R160). -/
def getTempWith (trials : Nat) (cyc : BitVec 3) (hv : Bool) (s : State) : Host.Outcome State Fault Refusal :=
  if !hv || !s.avail then .next (answerSentinel s)
  else (acquire trials cyc s).toOutcome fun _ s => convert s

/-- GET_TEMP (R160). -/
def execGetTemp (hv : Bool) (s : State) : Host.Outcome State Fault Refusal :=
  getTempWith Config.pollTrials Config.cycForced hv s

end Sys2Proof.Machine
end

