-- ==== Sys2Proof/Machine/Dispatch.lean ====
section
/-! DEFINITION. One arm per command (30_encoding R81): what an accepted command does, run to its end (00_scope R6). -/

namespace Sys2Proof.Machine

def exec (i : Instr) (s : State) : Host.Outcome State Fault Refusal :=
  match i with
  | .init hv tv => Sys2Proof.Machine.execInit hv tv s
  | .isPresent hv => Sys2Proof.Machine.execIsPresent hv s
  | .readRegs hv bv reg len => Sys2Proof.Machine.execReadRegs hv bv reg len s
  | .writeRegs hv bv reg len wdata => Sys2Proof.Machine.execWriteRegs hv bv reg len wdata s
  | .setMode hv m => Sys2Proof.Machine.execSetMode hv m s
  | .setCycle hv c => Sys2Proof.Machine.execSetCycle hv c s
  | .isConvDone hv => Sys2Proof.Machine.execIsConvDone hv s
  | .getTemp hv => Sys2Proof.Machine.execGetTemp hv s
  | .reserved => Sys2Proof.Machine.execReserved s

end Sys2Proof.Machine
end

