-- ==== Sys2Proof/Machine/Port.lean ====
section
/-! DEFINITION. The host's side of the block: taking a command (00_scope R12), reset (70_reset_and_hazards R210 to R212),
and what the log of a command says. -/

namespace Sys2Proof.Machine

/-! ## Reading the log -/

/-- A transport event (00_scope R14): `Probe`, `MemRead`, `MemWrite` or `Sleep`. -/
def Entry.isEvent : Entry → Bool
  | .probe _ _ _ => true
  | .memRead _ _ _ _ _ => true
  | .memWrite _ _ _ _ _ _ => true
  | .sleep _ => true
  | .phase _ => false
  | .response _ => false
  | .reset => false

/-- An event that the environment answers: every event but `Sleep` (R9). -/
def Entry.isAnswered : Entry → Bool
  | .probe _ _ _ => true
  | .memRead _ _ _ _ _ => true
  | .memWrite _ _ _ _ _ _ => true
  | .sleep _ => false
  | .phase _ => false
  | .response _ => false
  | .reset => false

/-- A response to the host. -/
def Entry.isResponse : Entry → Bool
  | .response _ => true
  | .probe _ _ _ => false
  | .memRead _ _ _ _ _ => false
  | .memWrite _ _ _ _ _ _ => false
  | .sleep _ => false
  | .phase _ => false
  | .reset => false

/-- What was logged between two states, the earlier one first. -/
def added (s t : State) : List Entry := t.log.drop s.log.length

/-- What was done before a reset that comes after `k` transport events: everything up to the next event or the response
(R211: "events already issued have happened, events not yet issued never happen", no response). -/
def cutAfter : Nat → List Entry → List Entry
  | _, [] => []
  | k, e :: es =>
    if e.isResponse then []
    else if e.isEvent then
      match k with
      | 0 => []
      | k' + 1 => e :: cutAfter k' es
    else e :: cutAfter k es

/-! ## Reset -/

/-- Reset of the block (R41, R210): its own registers take their reset values; the sensor, that is the environment, and
the host are not touched (R212). -/
def resetBlock (s : State) : State :=
  { s with
    avail := State.reset.avail, bound := State.reset.bound, ph := State.reset.ph
    work := State.reset.work, rsp := State.reset.rsp, log := s.log ++ [.reset] }

/-- A command that would have gone from `s` to `t` is cut by a reset after `k` of its events (R211): the events before
the cut have happened and their answers are used; the rest, and the response, never happen. -/
def abandon (k : Nat) (s t : State) : State :=
  let done := cutAfter k (added s t)
  let n := done.countP Entry.isAnswered
  resetBlock
    { s with env := s.env.drop n, answered := s.answered + n, draws := t.draws, log := s.log ++ done }

/-- The phase in which a command comes to its first transport event, when it comes to one (R25, R162). -/
def busPhase : Instr → Phase
  | .init _ _ | .isPresent _ | .readRegs _ _ _ _ | .writeRegs _ _ _ _ _ => .busy
  | .setMode _ _ | .setCycle _ _ | .isConvDone _ | .reserved => .busy
  | .getTemp _ => .configuringMode

/-- A command that a reset cuts after `k` of its events, or just before its end when it has no more (R211). A command that
would fault has issued no event, and the reset comes before the fault. -/
def cutShort (i : Instr) (k : Nat) (s : State) : Host.Outcome State Fault Refusal :=
  match exec i s with
  | .next t => .next (abandon k s t)
  | .fault _ => .next (resetBlock (s.setPh (busPhase i)))
  | .refused r => .refused r

/-! ## Taking the next host input -/

/-- The port decodes a command and the block runs it to its end (R6, R12). -/
def runCommand (c : Command) (s : State) : Host.Outcome State Fault Refusal :=
  match decode c with
  | .ok i => exec i s
  | .error .wdataLength => .refused .wdataLength

/-- The port decodes a command, and a reset cuts it (R211). -/
def runThenReset (c : Command) (k : Nat) (s : State) : Host.Outcome State Fault Refusal :=
  match decode c with
  | .ok i => cutShort i k s
  | .error .wdataLength => .refused .wdataLength

/-- One step: the next host input is taken. A command is accepted in `IDLE` only (R12); in `IDLE` with no input the block
waits (R41, R210); a reset is taken in any phase. -/
def takeInput (s : State) : Host.Outcome State Fault Refusal :=
  match s.host with
  | .reset :: rest => .next (resetBlock (s.setHost rest))
  | .command c :: rest => if s.ph = .idle then runCommand c (s.setHost rest) else .fault .busy
  | .commandThenReset c k :: rest => if s.ph = .idle then runThenReset c k (s.setHost rest) else .fault .busy
  | [] => if s.ph = .idle then .next s else .fault .busy

end Sys2Proof.Machine
end

