-- ==== Sys2Proof/Machine/Step.lean ====
section
/-! DEFINITION. One step of the machine, and the state in which the next step runs a given command. -/

namespace Sys2Proof.Machine

/-- One step: the block takes the next host input and does all that follows from it (00_scope R6, R12). -/
def step (s : State) : Host.Outcome State Fault Refusal := takeInput s

/-- `s` with a command offered first at the port of an idle block, so that the next step accepts and runs it (R12;
notes/assumptions/7.md and 12.md). -/
def State.withFetchWord (s : State) (nbits w : Nat) : State :=
  { s with ph := .idle, host := .command (tableCommand nbits w) :: s.host }

end Sys2Proof.Machine
end

