-- ==== Sys2Proof/Safety.lean ====
section
/-! DEFINITION. What a good run is (60_exceptions R193: a run that faults is not one), the invariant of the reachable
states, and the terms in which claims speak: the environment's coming answers, and what a command's log says. -/

namespace Sys2Proof.Machine

/-! ## Arguments and the bus -/

/-- Whether a command's argument check fails (60_exceptions R181). A null handle is an argument error only where R181
lists it: IS_PRESENT, IS_CONV_DONE and GET_TEMP answer it otherwise (R186, R161). -/
def argumentBad : Instr → Bool
  | .init hv tv => !hv || !tv
  | .isPresent _ => false
  | .readRegs hv bv _ len => argsBad hv bv (lenInt len)
  | .writeRegs hv bv _ len _ => argsBad hv bv (lenInt len)
  | .setMode hv _ => !hv
  | .setCycle hv _ => !hv
  | .isConvDone _ => false
  | .getTemp _ => false
  | .reserved => true

/-- Whether an accepted command, from this state, comes to a transport event (R189, R193, R214): its argument check
passes, its handle is given, and for GET_TEMP the handle is available. -/
def usesBus (i : Instr) (s : State) : Bool :=
  match i with
  | .init hv tv => hv && tv
  | .isPresent hv => hv
  | .readRegs hv bv _ len => !argsBad hv bv (lenInt len)
  | .writeRegs hv bv _ len _ => !argsBad hv bv (lenInt len)
  | .setMode hv _ => hv
  | .setCycle hv _ => hv
  | .isConvDone hv => hv
  | .getTemp hv => hv && s.avail
  | .reserved => false

/-- INIT, the one command that binds the transport and records presence (10_state R21, R22). -/
def isInit : Instr → Bool
  | .init _ _ => true
  | .isPresent _ => false
  | .readRegs _ _ _ _ => false
  | .writeRegs _ _ _ _ _ => false
  | .setMode _ _ => false
  | .setCycle _ _ => false
  | .isConvDone _ => false
  | .getTemp _ => false
  | .reserved => false

/-- GET_TEMP, the one command that reads `avail` (10_state R21). -/
def isGetTemp : Instr → Bool
  | .getTemp _ => true
  | .init _ _ => false
  | .isPresent _ => false
  | .readRegs _ _ _ _ => false
  | .writeRegs _ _ _ _ _ => false
  | .setMode _ _ => false
  | .setCycle _ _ => false
  | .isConvDone _ => false
  | .reserved => false

/-- The two host-driven register commands, the only ones whose accesses the host chooses (20_memory R58). -/
def isRegisterAccess : Instr → Bool
  | .readRegs _ _ _ _ => true
  | .writeRegs _ _ _ _ _ => true
  | .init _ _ => false
  | .isPresent _ => false
  | .setMode _ _ => false
  | .setCycle _ _ => false
  | .isConvDone _ => false
  | .getTemp _ => false
  | .reserved => false

/-- The field mask and requested bits of a setter (R131, R132); nothing for any other command. -/
def setterField : Instr → Option (Word × Word)
  | .setMode _ m => some (modeMask, modeBits m)
  | .setCycle _ c => some (cycMask, cycBits c)
  | .init _ _ => none
  | .isPresent _ => none
  | .readRegs _ _ _ _ => none
  | .writeRegs _ _ _ _ _ => none
  | .isConvDone _ => none
  | .getTemp _ => none
  | .reserved => none

/-- The one case in which a command faults (R193): it comes to an event while no transport is bound. INIT binds it
first. -/
def faultsUnbound (i : Instr) (s : State) : Bool := usesBus i s && !isInit i && !s.bound

/-- The statuses a command can end with (R185). -/
def allowedStatuses (i : Instr) (s : State) : List Status :=
  match i with
  | .init hv tv => if hv && tv then [.ok, .unavailable] else [.argErr]
  | .isPresent _ => [.ok]
  | .readRegs hv bv _ len => if argsBad hv bv (lenInt len) then [.argErr] else [.ok, .xportErr]
  | .writeRegs hv bv _ len _ => if argsBad hv bv (lenInt len) then [.argErr] else [.ok, .xportErr]
  | .setMode hv _ => if hv then [.ok, .xportErr, .verifyErr] else [.argErr]
  | .setCycle hv _ => if hv then [.ok, .xportErr, .verifyErr] else [.argErr]
  | .isConvDone _ => [.ok]
  | .getTemp hv => if hv && s.avail then [.ok] else [.unavailable]
  | .reserved => [.argErr]

/-- The phases a command passes through (R25, R171). -/
def phasesOfCommand (i : Instr) (s : State) : List Phase :=
  match i with
  | .getTemp hv =>
    if hv && s.avail then [.configuringMode, .configuringCycle, .polling, .reading, .converted, .idle]
    else [.unavailable, .idle]
  | .init _ _ => [.busy, .idle]
  | .isPresent _ => [.busy, .idle]
  | .readRegs _ _ _ _ => [.busy, .idle]
  | .writeRegs _ _ _ _ _ => [.busy, .idle]
  | .setMode _ _ => [.busy, .idle]
  | .setCycle _ _ => [.busy, .idle]
  | .isConvDone _ => [.busy, .idle]
  | .reserved => [.busy, .idle]

/-! ## Good runs -/

/-- Change the state of an outcome that goes on; a stop stays as it is. -/
def mapNext (f : State → State) : Host.Outcome State Fault Refusal → Host.Outcome State Fault Refusal
  | .next t => .next (f t)
  | .fault x => .fault x
  | .refused r => .refused r

/-- Go on from an outcome; a stop stays as it is. -/
def thenRun (o : Host.Outcome State Fault Refusal) (f : State → Host.Outcome State Fault Refusal) :
    Host.Outcome State Fault Refusal :=
  match o with
  | .next t => f t
  | .fault x => .fault x
  | .refused r => .refused r

/-- The invariant of the reachable states: an available handle is bound (R193), the block is idle between commands
(R13, R25), and the counters fit "enough for `PROBE_TRIALS`" and "enough for `POLL_TRIALS`" (R26; notes/assumptions/19.md,
and after reset the zeros of notes/assumptions/4.md). -/
abbrev State.Inv (s : State) : Prop :=
  (s.avail = true → s.bound = true) ∧ s.ph = .idle ∧
    s.work.pcnt ≤ Config.probeTrials ∧ s.work.wcnt ≤ Config.pollTrials

/-! ## The environment's coming answers (00_scope R10) -/

/-- The state with the next `k` answers used. -/
def State.skip (s : State) (k : Nat) : State := { s with env := s.env.drop k, answered := s.answered + k }

/-- Whether the answer number `k` to come (0 is the next) is the good one. -/
def okAt (s : State) (k : Nat) : Bool := (s.skip k).answerOk

/-- The `n` bytes of the answer number `k` to come. -/
def bytesAt (s : State) (k n : Nat) : List Byte := (s.skip k).answerBytes n

/-- The 16-bit value of the answer number `k` to come, read as two bytes, high byte first (R55). -/
def wordAt (s : State) (k : Nat) : Word := joinBytes ((s.skip k).answerByte 0) ((s.skip k).answerByte 1)

/-- What a read of `n` bytes is answered when its answer is number `k` to come (R52). -/
def readAt (s : State) (k n : Nat) : Option (List Byte) := if okAt s k then some (bytesAt s k n) else none

/-! ## What a log says -/

/-- The transport events of a log, in issue order (20_memory R64). -/
def eventsOf (es : List Entry) : List Entry := es.filter Entry.isEvent

/-- The responses of a log. -/
def responsesOf (es : List Entry) : List Entry := es.filter Entry.isResponse

/-- How many events of a log the environment answered. -/
def answeredOf (es : List Entry) : Nat := es.countP Entry.isAnswered

/-- The values `ph` took. -/
def phasesOf (es : List Entry) : List Phase :=
  es.filterMap fun e => match e with
    | .phase p => some p
    | _ => none

/-- A read of Config as the block makes it, with its answer (R58). -/
def configRead (answer : Option (List Byte)) : Entry := .memRead Config.devAddr regConfig 2 Config.xferWait answer

/-- A write of Config as the block makes it, with its answer (R55, R58). -/
def configWrite (v : Word) (ok : Bool) : Entry :=
  .memWrite Config.devAddr regConfig 2 [hiByte v, loByte v] Config.xferWait ok

/-- A read of Result as the block makes it, with its answer (R58). -/
def resultRead (answer : Option (List Byte)) : Entry := .memRead Config.devAddr regResult 2 Config.xferWait answer

/-- A probe attempt with its answer (R54). -/
def probeEvent (ready : Bool) : Entry := .probe Config.devAddr Config.probeTimeout ready

/-- The value of two bytes that a read answered, high byte first (R55). -/
def pairValue : Option (List Byte) → Option Word
  | some [b0, b1] => some (joinBytes b0 b1)
  | _ => none

/-- A read or write that was answered `Fail` (R182). -/
def Entry.failed : Entry → Bool
  | .memRead _ _ _ _ none => true
  | .memWrite _ _ _ _ _ false => true
  | _ => false

/-- A poll's read of Config that saw the data-ready bit (R150). -/
def Entry.sawReady : Entry → Bool
  | .memRead _ _ _ _ (some [b0, b1]) => isReady (joinBytes b0 b1)
  | _ => false

/-- A read of Config. -/
def Entry.readsConfig : Entry → Bool
  | .memRead _ reg _ _ _ => reg == regConfig
  | _ => false

/-- A read of Result. -/
def Entry.readsResult : Entry → Bool
  | .memRead _ reg _ _ _ => reg == regResult
  | _ => false

/-- A write of Config. -/
def Entry.writesConfig : Entry → Bool
  | .memWrite _ reg _ _ _ _ => reg == regConfig
  | _ => false

/-- A write of any sensor register. -/
def Entry.isWrite : Entry → Bool
  | .memWrite _ _ _ _ _ _ => true
  | _ => false

/-- A sleep. -/
def Entry.isSleep : Entry → Bool
  | .sleep _ => true
  | _ => false

/-- The answer in an entry is the one the environment has as number `k` to come (R10, R52 to R54). -/
def Entry.answeredBy (e : Entry) (s : State) (k : Nat) : Prop :=
  match e with
  | .probe _ _ ready => ready = okAt s k
  | .memRead _ _ n _ answer => answer = readAt s k n
  | .memWrite _ _ _ _ _ ok => ok = okAt s k
  | _ => False

/-- The device address an event carries (R51). -/
def Entry.device : Entry → Option Nat
  | .probe dev _ _ => some dev
  | .memRead dev _ _ _ _ => some dev
  | .memWrite dev _ _ _ _ _ => some dev
  | _ => none

/-- A read or write as the block makes them on its own (R58): 2 bytes of Config or Result, and only Config is written. -/
def Entry.isOwnAccess : Entry → Bool
  | .memRead _ reg n _ _ => n == 2 && (reg == regConfig || reg == regResult)
  | .memWrite _ reg n bytes _ _ => n == 2 && bytes.length == 2 && reg == regConfig
  | _ => true

/-- A probe attempt. -/
def Entry.isProbe : Entry → Bool
  | .probe _ _ _ => true
  | _ => false

/-- Steps 3 and 4 of a setter that writes `new`, the answers number `k` and `k + 1` to come being those of the write and
of the read-back (R130): the status it ends with and the events it issues. -/
def verifyRun (mask want new : Word) (s : State) (k : Nat) : Status × List Entry :=
  if !okAt s k then (.xportErr, [configWrite new false])
  else if !okAt s (k + 1) then (.xportErr, [configWrite new true, configRead none])
  else
    (if fieldEq (wordAt s (k + 1)) mask want then .ok else .verifyErr,
      [configWrite new true, configRead (readAt s (k + 1) 2)])

/-- What a setter does with the coming answers (R130): the status it ends with and the events it issues. -/
def setterRun (mask want : Word) (s : State) : Status × List Entry :=
  if !okAt s 0 then (.xportErr, [configRead none])
  else if fieldEq (wordAt s 0) mask want then (.ok, [configRead (readAt s 0 2)])
  else
    let rest := verifyRun mask want (applyField (wordAt s 0) mask want) s 1
    (rest.1, configRead (readAt s 0 2) :: rest.2)

/-- Whether the data-ready check that takes the answer number `j` to come is true: answered, and bit 13 set (R150). -/
def readyAt (s : State) (j : Nat) : Bool := okAt s j && isReady (wordAt s j)

/-- The events of a poll that makes `k` trials: reads of Config, a sleep between two (R164). -/
def pollEvents (s : State) (k : Nat) : List Entry :=
  ((List.range k).map fun j => configRead (readAt s j 2)).intersperse (.sleep Config.pollInterval)

/-- How many answers the two setters of GET_TEMP use (R162, R163). -/
def settersUse (cyc : BitVec 3) (s : State) : Nat :=
  let n := answeredOf (setterRun modeMask (modeBits .continuous) s).2
  n + answeredOf (setterRun cycMask (cycBits cyc) (s.skip n)).2

/-- What GET_TEMP logs from `CONFIGURING_MODE` to the read of Result when its poll makes `k` trials (R162 to R165,
R171). -/
def acquireEvents (cyc : BitVec 3) (s : State) (k : Nat) : List Entry :=
  let n := answeredOf (setterRun modeMask (modeBits .continuous) s).2
  .phase .configuringMode :: (setterRun modeMask (modeBits .continuous) s).2 ++
    (.phase .configuringCycle :: (setterRun cycMask (cycBits cyc) (s.skip n)).2 ++
      (.phase .polling :: pollEvents (s.skip (settersUse cyc s)) k ++
        [.phase .reading, resultRead (readAt s (settersUse cyc s + k) 2)]))

/-- What a command leaves unchanged, whatever it is: the inputs after its own are untouched, the log only grows, and the
environment's answers are used one per answered event, in order (R10, R64; `env`, `answered` and `log` are the model's own
fields, notes/assumptions/2.md and 11.md). -/
def commandFrame (s t : State) : Prop :=
  t.host = s.host ∧ t.log = s.log ++ added s t ∧
    t.env = s.env.drop (answeredOf (added s t)) ∧ t.answered = s.answered + answeredOf (added s t)

/-! ## The commands of R99 that do by hand what GET_TEMP does inside -/

/-- IS_CONV_DONE up to `n` times, until its flag is set (R99). -/
def pollByHand : Nat → State → Host.Outcome State Fault Refusal
  | 0, s => .next s
  | n + 1, s =>
    thenRun (exec (.isConvDone true) s) fun t => if t.rsp.flag || n == 0 then .next t else pollByHand n t

/-- SET_MODE continuous, SET_CYCLE CYC_FORCED, IS_CONV_DONE up to POLL_TRIALS times, READ_REGS 0x00, 2 (R99). -/
def acquireByHand (s : State) : Host.Outcome State Fault Refusal :=
  thenRun (exec (.setMode true .continuous) s) fun s =>
  thenRun (exec (.setCycle true Config.cycForced) s) fun s =>
  thenRun (pollByHand Config.pollTrials s) fun s => exec (.readRegs true true regResult 2) s

end Sys2Proof.Machine
end

