-- ==== Sys2Proof/Certificates/Slice0/Obligations.lean ====
section
/-! DEFINITION. The statements for the provers. `okAt s k`, `readAt s k n` and `wordAt s k` are the environment's answer
number `k` to come in `s` (00_scope R10): every statement holds whatever they are. -/

open Sys2Proof Sys2Proof.Machine

/-! ## Encoding -/

/-- Decoding an encoded well-formed command gives it back, with every operand at every value (R80, R81, R88). -/
def Obligations.DecodeEncodeRoundTrip : Prop :=
  ∀ i : Instr, i.wellFormed = true → decode (encode i) = .ok i

/-- The decoder gives well-formed commands only, and rejects only a WRITE_REGS whose byte string is read and does not have
exactly `len` bytes (R88; the rejection is the model's, notes/assumptions/8.md). -/
def Obligations.DecodeRejectsOnlyWrongWdata : Prop :=
  (∀ (c : Command) (i : Instr), decode c = .ok i → i.wellFormed = true) ∧
  ∀ (c : Command) (e : DecodeError), decode c = .error e ↔
    opField c.word = 3 ∧ wdataRead (hvBit c.word) (bvBit c.word) (lenField c.word) = true ∧
      c.wdata.length ≠ (lenField c.word).toInt.toNat

/-- Two words that agree on the bits their command uses decode alike; a byte string counts for WRITE_REGS only; an encoded
word has every ignored bit 0 (R81, R85, R86). -/
def Obligations.IgnoredBitsChangeNothing : Prop :=
  (∀ (w w' : CmdWord) (d : List Byte), w &&& usedBits w = w' &&& usedBits w → decode ⟨w, d⟩ = decode ⟨w', d⟩) ∧
  (∀ (w : CmdWord) (d d' : List Byte), opField w ≠ 3 → decode ⟨w, d⟩ = decode ⟨w, d'⟩) ∧
  ∀ i : Instr, (encode i).word &&& ~~~(usedBits (encode i).word) = 0

/-- Every word belongs to exactly one row of the opcode table, and decodes to that row's command (R81, R87). -/
def Obligations.OpcodeRowsPartitionTheWords : Prop :=
  ∀ w : CmdWord, ∃ r ∈ opcodeRows, r.has w = true ∧ (∀ r' ∈ opcodeRows, r'.has w = true → r' = r) ∧
    ∀ (d : List Byte) (i : Instr), decode ⟨w, d⟩ = .ok i → i.mnemonic = r.mnemonic

/-- Words written out in the spec (R98, test vectors T30) decode to the commands they stand for. -/
def Obligations.SampleWordsDecode : Prop :=
  decode ⟨0x0A000000, []⟩ = .ok (.init true true) ∧
  decode ⟨0x08000000, []⟩ = .ok (.init true false) ∧
  decode ⟨0x18000000, []⟩ = .ok (.isPresent true) ∧
  decode ⟨0x2C018000, []⟩ = .ok (.readRegs true true 0x01 0x80) ∧
  decode ⟨0x3C020200, [0x0C, 0x80]⟩ = .ok (.writeRegs true true 0x02 0x02 [0x0C, 0x80]) ∧
  decode ⟨0x480000FD, []⟩ = .ok (.setMode true .shutdown) ∧
  decode ⟨0x580000FD, []⟩ = .ok (.setCycle true 5) ∧
  decode ⟨0x68000000, []⟩ = .ok (.isConvDone true) ∧
  decode ⟨0x7FFFFFFF, []⟩ = .ok (.getTemp true) ∧
  decode ⟨0x9C010200, []⟩ = .ok .reserved

/-! ## Reset, the port, the step -/

/-- After reset `avail = 0`, `bound = 0`, `ph = IDLE`, and no code runs: the block waits for a command. A reset taken
later does the same and touches neither the environment nor the inputs after it (R210, R212; the spec's decision D9). -/
def Obligations.ResetLeavesTheBlockWaiting : Prop :=
  State.reset.avail = false ∧ State.reset.bound = false ∧ State.reset.ph = .idle ∧
  step State.reset = .next State.reset ∧
  ∀ (s : State) (rest : List HostInput), s.host = .reset :: rest →
    ∃ t, step s = .next t ∧ t.avail = false ∧ t.bound = false ∧ t.ph = .idle ∧
      t.log = s.log ++ [.reset] ∧ t.env = s.env ∧ t.answered = s.answered ∧ t.host = rest

/-- When the command offered to an idle block decodes, the step is `exec` of it, the input taken; a command the port
rejects stops the step by name (the model's choice, notes/assumptions/8.md); no input, no change. -/
def Obligations.StepRunsTheOfferedCommand : Prop :=
  (∀ (s : State) (c : Command) (rest : List HostInput) (i : Instr), s.ph = .idle → s.host = .command c :: rest →
    decode c = .ok i → step s = exec i (s.setHost rest)) ∧
  (∀ (s : State) (c : Command) (rest : List HostInput), s.ph = .idle → s.host = .command c :: rest →
    decode c = .error .wdataLength → step s = .refused .wdataLength) ∧
  ∀ s : State, s.ph = .idle → s.host = [] → step s = .next s

/-- The port accepts nothing while `ph` is not `IDLE` (R12): the model has no move for it (U17, its own fault `busy`,
notes/assumptions/9.md). -/
def Obligations.BusyPortAcceptsNothing : Prop :=
  ∀ s : State, s.ph ≠ .idle → (∀ rest, s.host ≠ .reset :: rest) → step s = .fault .busy

/-- A reset during a command (R211): the block is as after reset, what the command did before the cut stays, at most `k`
of its events, in order and with their answers used; no response is produced and nothing later happens. A command that would
fault for want of a binding issues no event (R193), and the reset abandons it before the fault. A word the port rejects is
no command and is refused as without the reset (notes/assumptions/8.md). R211 is the spec's decision D9; where the cut falls
between two events, or before a fault, is the model's choice (notes/assumptions/10.md). -/
def Obligations.ResetCutsTheCommandShort : Prop :=
  ∀ (s : State) (c : Command) (k : Nat) (rest : List HostInput), s.ph = .idle → s.host = .commandThenReset c k :: rest →
    (∀ i, decode c = .ok i →
      ∃ u es, step s = .next u ∧ u.avail = false ∧ u.bound = false ∧ u.ph = .idle ∧ u.host = rest ∧
        u.log = s.log ++ es ++ [.reset] ∧ responsesOf es = [] ∧
        u.env = s.env.drop (answeredOf es) ∧ u.answered = s.answered + answeredOf es ∧
        (∀ t, exec i (s.setHost rest) = .next t →
          es <+: added s t ∧ (eventsOf es).length = min k (eventsOf (added s t)).length) ∧
        ∀ f, exec i (s.setHost rest) = .fault f → eventsOf es = []) ∧
    (decode c = .error .wdataLength → step s = .refused .wdataLength)

/-! ## The invariant -/

/-- The invariant holds after reset. Its clauses on `pcnt` and `wcnt` rest on the model's choices: R41 leaves both
unspecified after reset, and the model names 0 (notes/assumptions/4.md, DESIGN CHOICE); that they have room for their budget
is notes/assumptions/19.md (DEDUCED). -/
def Obligations.InvariantHoldsAtReset : Prop := State.reset.Inv

/-- Every step keeps the invariant: an available handle is bound (R193), the block is idle between commands (R13, R25),
and the two counters fit their budgets (R26). After a step that resets the block the counter clauses rest on the zeros
the model names (notes/assumptions/4.md, DESIGN CHOICE; R41 leaves both unspecified), and everywhere on
notes/assumptions/19.md (DEDUCED). -/
def Obligations.StepKeepsTheInvariant : Prop :=
  ∀ s t : State, s.Inv → step s = .next t → t.Inv

/-- Only a passing INIT and a reset change `avail` or `bound` (R21, R22). -/
def Obligations.OnlyInitAndResetWriteAvailAndBound : Prop :=
  ∀ s t : State, step s = .next t → t.avail ≠ s.avail ∨ t.bound ≠ s.bound →
    ∃ rest, s.host = .reset :: rest ∨ (∃ c k, s.host = .commandThenReset c k :: rest) ∨
      ∃ c, s.host = .command c :: rest ∧ decode c = .ok (.init true true)

/-! ## Every command -/

/-- A command faults exactly when it comes to an event with no transport bound, with `UNBOUND`, and INIT never does; no
command is refused; under the invariant GET_TEMP never faults (R193, the spec's decision D10; the fault of GET_TEMP where
`avail = 1` and `bound = 0`, which no run reaches, is the model's reading, notes/assumptions/18.md). -/
def Obligations.CommandsFaultExactlyWhenUnbound : Prop :=
  ∀ (i : Instr) (s : State),
    (exec i s = .fault .unbound ↔ faultsUnbound i s = true) ∧ (∀ f, exec i s = .fault f → f = .unbound) ∧
    (∀ r, exec i s ≠ .refused r) ∧ (s.Inv → isGetTemp i = true → ∀ f, exec i s ≠ .fault f)

/-- Every command that does not fault ends with exactly one response, last, and `ph = IDLE` (R12, R13). That it advances
the draw counter is about the model's own field (notes/assumptions/5.md, DESIGN CHOICE). -/
def Obligations.EveryCommandEndsWithOneResponse : Prop :=
  ∀ (i : Instr) (s : State), faultsUnbound i s = false →
    ∃ t es, exec i s = .next t ∧ t.ph = .idle ∧ t.log = s.log ++ es ++ [.response t.rsp, .phase .idle] ∧
      responsesOf es = [] ∧ t.draws > s.draws

/-- The phases of every command (R25, R171): the seven other commands and the reserved range pass through `BUSY`. -/
def Obligations.CommandsPassThroughTheirPhases : Prop :=
  ∀ (i : Instr) (s t : State), exec i s = .next t → phasesOf (added s t) = phasesOfCommand i s

/-- The answers in a command's log are the environment's, in order, one per answered event: the block assumes nothing of
them, and one event is outstanding at a time (R10, R64, the spec's decision D22). The form in which the answers come is the
model's (notes/assumptions/2.md, DESIGN CHOICE). -/
def Obligations.AnswersAreTakenInOrder : Prop :=
  ∀ (i : Instr) (s t : State), exec i s = .next t →
    ∀ (k : Nat) (e : Entry), ((added s t).filter Entry.isAnswered)[k]? = some e → e.answeredBy s k

/-- Every event carries the one device address (R51). -/
def Obligations.EveryEventCarriesTheDeviceAddress : Prop :=
  ∀ (i : Instr) (s t : State), exec i s = .next t →
    ∀ e ∈ added s t, (e.isAnswered = true → e.device = some Config.devAddr)

/-- Every access the block makes on its own is exactly 2 bytes, of Config or Result, and only Config is written; only
READ_REGS and WRITE_REGS can move another number of bytes (R58). -/
def Obligations.OwnAccessesAreTwoBytes : Prop :=
  ∀ (i : Instr) (s t : State), isRegisterAccess i = false → exec i s = .next t →
    ∀ e ∈ added s t, e.isOwnAccess = true

/-- The statuses each command can end with (R185). -/
def Obligations.StatusesStayInTheTable : Prop :=
  ∀ (i : Instr) (s t : State), exec i s = .next t → t.rsp.st ∈ allowedStatuses i s

/-- `ARG_ERR` exactly when an argument is bad; then no transport event was issued, and the response records nothing else
(R181). That the undefined fields are the free values of this draw is the model's choice (notes/assumptions/5.md, DESIGN
CHOICE; R89 says any value). -/
def Obligations.ArgumentErrorsIssueNoEvent : Prop :=
  ∀ (i : Instr) (s t : State), exec i s = .next t →
    (t.rsp.st = .argErr ↔ argumentBad i = true) ∧
    (t.rsp.st = .argErr → eventsOf (added s t) = [] ∧ t.rsp = response .argErr none none none s.draws)

/-- `XPORT_ERR` exactly when, in a register command or a setter, an event was answered `Fail`; it is then the last event:
nothing is retried and later events are not issued; the response records nothing else (R182). That a setter ends at its
first failing access is the spec's decision D18 (marked in R130), and R189's order is marked as derived. That the undefined
fields are the free values of this draw is the model's choice (notes/assumptions/5.md, DESIGN CHOICE; R89 says any value). -/
def Obligations.TransportErrorsEndTheCommand : Prop :=
  ∀ (i : Instr) (s t : State), exec i s = .next t →
    (t.rsp.st = .xportErr ↔ (isRegisterAccess i = true ∨ setterField i ≠ none) ∧
      ∃ e ∈ eventsOf (added s t), e.failed = true) ∧
    (t.rsp.st = .xportErr → (∀ e ∈ (eventsOf (added s t)).dropLast, e.failed = false) ∧
      t.rsp = response .xportErr none none none s.draws)

/-- `VERIFY_ERR` exactly when a setter's read, write and read-back were all answered and the field read back is not the
requested one; nothing follows, so the write is not undone, and the response records nothing else (R183).
That the undefined fields are the free values of this draw is the model's choice (notes/assumptions/5.md, DESIGN CHOICE; R89
says any value). -/
def Obligations.VerificationErrorsFollowThreeEvents : Prop :=
  ∀ (i : Instr) (s t : State), exec i s = .next t →
    (t.rsp.st = .verifyErr ↔ ∃ mask want v b c x, setterField i = some (mask, want) ∧
      eventsOf (added s t) = [configRead (some b), configWrite v true, configRead (some c)] ∧
      pairValue (some c) = some x ∧ fieldEq x mask want = false) ∧
    (t.rsp.st = .verifyErr → t.rsp = response .verifyErr none none none s.draws)

/-- No command but GET_TEMP reads `avail`: changing it changes nothing else of what the command does; INIT with good
arguments overwrites it (R21). That the undefined response fields are the same in both runs is the model's choice
(notes/assumptions/5.md, DESIGN CHOICE; R89 says any value). -/
def Obligations.AvailMattersOnlyToGetTemp : Prop :=
  (∀ (i : Instr) (s : State) (b : Bool), isGetTemp i = false → isInit i = false →
    exec i (s.setAvail b) = mapNext (fun t => t.setAvail b) (exec i s)) ∧
  (∀ (s : State) (b : Bool), exec (.init true true) (s.setAvail b) = exec (.init true true) s) ∧
  ∀ (hv tv : Bool) (s : State) (b : Bool), (hv && tv) = false →
    exec (.init hv tv) (s.setAvail b) = mapNext (fun t => t.setAvail b) (exec (.init hv tv) s)

/-- No command's result depends on what the working registers or the response hold at its start (R26, the spec's
decision D29; R28 says it of `RSP.st` and `RSP.flag`): from other values the same command does the same, up to the working
registers it leaves. That an undefined response field does not depend on what it held is the model's choice
(notes/assumptions/5.md, DESIGN CHOICE: such a field does not keep its old value, where R27 allows any value). -/
def Obligations.WorkAndResponseAreNeverRead : Prop :=
  ∀ (i : Instr) (s : State) (w : Work) (r : Rsp),
    ∃ w', exec i ((s.setWork w).setRsp r) = mapNext (fun t => t.setWork w') (exec i s)

/-! ## INIT and IS_PRESENT -/

/-- INIT (R112): a null argument gives `ARG_ERR` and changes nothing but `RSP` and `ph`; else the handle is bound, the
probe loop runs until the first `Ready` or the end of its budget (R110), and `avail`, `flag` and `st` record it. The
procedure is the spec's decision D11. -/
def Obligations.InitBindsProbesAndRecords : Prop :=
  ∀ s : State,
    (∀ hv tv : Bool, hv = false ∨ tv = false → ∃ t, exec (.init hv tv) s = .next t ∧ t.rsp.st = .argErr ∧
      t.avail = s.avail ∧ t.bound = s.bound ∧ t.work = s.work ∧
      t.log = s.log ++ [.phase .busy, .response t.rsp, .phase .idle]) ∧
    (∀ k < Config.probeTrials, okAt s k = true → (∀ j < k, okAt s j = false) →
      ∃ t, exec (.init true true) s = .next t ∧ t.bound = true ∧ t.avail = true ∧ t.rsp.flag = true ∧
        t.rsp.st = .ok ∧ t.work.pcnt = k + 1 ∧
        t.log = s.log ++ .phase .busy :: List.replicate k (probeEvent false) ++
          [probeEvent true, .response t.rsp, .phase .idle]) ∧
    ((∀ j < Config.probeTrials, okAt s j = false) →
      ∃ t, exec (.init true true) s = .next t ∧ t.bound = true ∧ t.avail = false ∧ t.rsp.flag = false ∧
        t.rsp.st = .unavailable ∧ t.work.pcnt = Config.probeTrials ∧
        t.log = s.log ++ .phase .busy :: List.replicate Config.probeTrials (probeEvent false) ++
          [.response t.rsp, .phase .idle])

/-- IS_PRESENT (R111): a null handle answers false with no event, else `UNBOUND` when nothing is bound, else the result
of the probe loop (R110); `st` is always `OK`, and no register is written but `pcnt`, `RSP` and `ph`. -/
def Obligations.IsPresentAnswersTheProbeLoop : Prop :=
  (encode (.isPresent true)).word = 0x18000000 ∧
  ∀ s : State,
    (∃ t, exec (.isPresent false) s = .next t ∧ t.rsp.flag = false ∧ t.rsp.st = .ok ∧
      t.avail = s.avail ∧ t.bound = s.bound ∧ t.work = s.work ∧
      t.log = s.log ++ [.phase .busy, .response t.rsp, .phase .idle]) ∧
    (s.bound = false → exec (.isPresent true) s = .fault .unbound) ∧
    (s.bound = true → ∀ k < Config.probeTrials, okAt s k = true → (∀ j < k, okAt s j = false) →
      ∃ t, exec (.isPresent true) s = .next t ∧ t.rsp.flag = true ∧ t.rsp.st = .ok ∧
        t.avail = s.avail ∧ t.bound = s.bound ∧ t.work = { s.work with pcnt := k + 1 } ∧
        t.log = s.log ++ .phase .busy :: List.replicate k (probeEvent false) ++
          [probeEvent true, .response t.rsp, .phase .idle]) ∧
    (s.bound = true → (∀ j < Config.probeTrials, okAt s j = false) →
      ∃ t, exec (.isPresent true) s = .next t ∧ t.rsp.flag = false ∧ t.rsp.st = .ok ∧
        t.avail = s.avail ∧ t.bound = s.bound ∧ t.work = { s.work with pcnt := Config.probeTrials } ∧
        t.log = s.log ++ .phase .busy :: List.replicate Config.probeTrials (probeEvent false) ++
          [.response t.rsp, .phase .idle])

/-- What INIT and IS_PRESENT leave unchanged (R111, R112): every working register but `pcnt`, and for IS_PRESENT `avail`
and `bound`; nothing is read from or written to a sensor register. -/
def Obligations.ProbeCommandsFrame : Prop :=
  ∀ (i : Instr) (s t : State), ((∃ hv tv, i = .init hv tv) ∨ ∃ hv, i = .isPresent hv) → exec i s = .next t →
    commandFrame s t ∧ (∃ p, t.work = { s.work with pcnt := p }) ∧
    (isInit i = false → t.avail = s.avail ∧ t.bound = s.bound) ∧
    ∀ e ∈ eventsOf (added s t), e.isProbe = true

/-! ## READ_REGS, WRITE_REGS and the reserved range -/

/-- READ_REGS (R123, over R120): the argument check first, then the binding, then one read of `len` bytes at `reg`,
whose bytes are the response in wire order; nothing is written but `RSP` and `ph`. -/
def Obligations.ReadRegsOutcome : Prop :=
  (∀ reg len : Byte, (encode (.readRegs true true reg len)).word =
    0x2C000000 ||| reg.setWidth 32 <<< 16 ||| len.setWidth 32 <<< 8) ∧
  ∀ (hv bv : Bool) (reg len : Byte) (s : State),
    if hv = false ∨ bv = false ∨ lenInt len ≤ 0 then
      ∃ t, exec (.readRegs hv bv reg len) s = .next t ∧ t.rsp.st = .argErr ∧
        t.avail = s.avail ∧ t.bound = s.bound ∧ t.work = s.work ∧
        t.log = s.log ++ [.phase .busy, .response t.rsp, .phase .idle]
    else if s.bound = false then exec (.readRegs hv bv reg len) s = .fault .unbound
    else
      ∃ t, exec (.readRegs hv bv reg len) s = .next t ∧
        t.avail = s.avail ∧ t.bound = s.bound ∧ t.work = s.work ∧
        t.rsp.st = (if okAt s 0 then .ok else .xportErr) ∧
        (okAt s 0 = true → t.rsp.rdata = bytesAt s 0 (lenInt len).toNat ∧
          t.rsp.rdata.length = (lenInt len).toNat) ∧
        t.log = s.log ++ [.phase .busy,
          .memRead Config.devAddr reg (lenInt len).toNat Config.xferWait (readAt s 0 (lenInt len).toNat),
          .response t.rsp, .phase .idle]

/-- WRITE_REGS (R124, over R121): the argument check first, then the binding, then one write of the bytes as given at
`reg`, with no mask and no read-back; nothing is written but `RSP` and `ph`. -/
def Obligations.WriteRegsOutcome : Prop :=
  (∀ (reg len : Byte) (wdata : List Byte), encode (.writeRegs true true reg len wdata) =
    ⟨0x3C000000 ||| reg.setWidth 32 <<< 16 ||| len.setWidth 32 <<< 8, wdata⟩) ∧
  ∀ (hv bv : Bool) (reg len : Byte) (wdata : List Byte) (s : State),
    if hv = false ∨ bv = false ∨ lenInt len ≤ 0 then
      ∃ t, exec (.writeRegs hv bv reg len wdata) s = .next t ∧ t.rsp.st = .argErr ∧
        t.avail = s.avail ∧ t.bound = s.bound ∧ t.work = s.work ∧
        t.log = s.log ++ [.phase .busy, .response t.rsp, .phase .idle]
    else if s.bound = false then exec (.writeRegs hv bv reg len wdata) s = .fault .unbound
    else
      ∃ t, exec (.writeRegs hv bv reg len wdata) s = .next t ∧
        t.avail = s.avail ∧ t.bound = s.bound ∧ t.work = s.work ∧
        t.rsp.st = (if okAt s 0 then .ok else .xportErr) ∧
        t.log = s.log ++ [.phase .busy,
          .memWrite Config.devAddr reg (lenInt len).toNat wdata Config.xferWait (okAt s 0),
          .response t.rsp, .phase .idle]

/-- A reserved opcode (R87): `ARG_ERR`, no event, no state change but `RSP` and the passage of `ph` through `BUSY` (the
spec's decision D15). -/
def Obligations.ReservedAnswersArgumentError : Prop :=
  ∀ s : State, ∃ t, exec .reserved s = .next t ∧ t.rsp.st = .argErr ∧ t.avail = s.avail ∧ t.bound = s.bound ∧
    t.ph = .idle ∧ t.work = s.work ∧ t.host = s.host ∧ t.env = s.env ∧ t.answered = s.answered ∧
    t.log = s.log ++ [.phase .busy, .response t.rsp, .phase .idle]

/-- What READ_REGS and WRITE_REGS leave unchanged (R123, R124): `avail`, `bound` and every working register; READ_REGS
writes no sensor register, and WRITE_REGS none but the one it names. -/
def Obligations.RegisterCommandsFrame : Prop :=
  ∀ (i : Instr) (s t : State), exec i s = .next t →
    (∀ hv bv reg len, i = .readRegs hv bv reg len →
      commandFrame s t ∧ t.avail = s.avail ∧ t.bound = s.bound ∧ t.work = s.work ∧
      ∀ e ∈ added s t, e.isWrite = false) ∧
    (∀ hv bv reg len wdata, i = .writeRegs hv bv reg len wdata →
      commandFrame s t ∧ t.avail = s.avail ∧ t.bound = s.bound ∧ t.work = s.work ∧
      ∀ e ∈ eventsOf (added s t), ∃ ok, e =
        .memWrite Config.devAddr reg (lenInt len).toNat wdata Config.xferWait ok)

/-! ## SET_MODE and SET_CYCLE -/

/-- SET_MODE (R131, over R130): a null handle gives `ARG_ERR` with no event; else the run of `SetField` on the `MODE`
field, its status and its events. That it ends at the first failing access, no later event issued, is the spec's decision
D18 (marked in R130). -/
def Obligations.SetModeOutcome : Prop :=
  (∀ m : Mode, (encode (.setMode true m)).word = 0x48000000 ||| m.code.setWidth 32) ∧
  ∀ (hv : Bool) (m : Mode) (s : State),
    if hv = false then
      ∃ t, exec (.setMode hv m) s = .next t ∧ t.rsp.st = .argErr ∧
        t.avail = s.avail ∧ t.bound = s.bound ∧ t.work = s.work ∧
        t.log = s.log ++ [.phase .busy, .response t.rsp, .phase .idle]
    else if s.bound = false then exec (.setMode hv m) s = .fault .unbound
    else
      ∃ t, exec (.setMode hv m) s = .next t ∧ t.rsp.st = (setterRun 0x0C00 (modeBits m) s).1 ∧
        t.log = s.log ++ .phase .busy :: (setterRun 0x0C00 (modeBits m) s).2 ++ [.response t.rsp, .phase .idle]

/-- SET_CYCLE (R132, over R130): as SET_MODE, on the `CYC` field, the spec's decision D18 included. -/
def Obligations.SetCycleOutcome : Prop :=
  (∀ c : BitVec 3, (encode (.setCycle true c)).word = 0x58000000 ||| c.setWidth 32) ∧
  ∀ (hv : Bool) (c : BitVec 3) (s : State),
    if hv = false then
      ∃ t, exec (.setCycle hv c) s = .next t ∧ t.rsp.st = .argErr ∧
        t.avail = s.avail ∧ t.bound = s.bound ∧ t.work = s.work ∧
        t.log = s.log ++ [.phase .busy, .response t.rsp, .phase .idle]
    else if s.bound = false then exec (.setCycle hv c) s = .fault .unbound
    else
      ∃ t, exec (.setCycle hv c) s = .next t ∧ t.rsp.st = (setterRun 0x0380 (cycBits c) s).1 ∧
        t.log = s.log ++ .phase .busy :: (setterRun 0x0380 (cycBits c) s).2 ++ [.response t.rsp, .phase .idle]

/-- What the setters leave in their working registers (R26, R130): `cur` the value read, `new` and `tx` the value written,
`chk` the value read back; a setter whose first read fails leaves them all (the spec's decisions D18 and D29). -/
def Obligations.SettersLeaveTheirWorkingValues : Prop :=
  ∀ (i : Instr) (s t : State) (mask want : Word), setterField i = some (mask, want) → argumentBad i = false →
    exec i s = .next t →
    (okAt s 0 = false → t.work = s.work) ∧
    (okAt s 0 = true → t.work.cur = wordAt s 0) ∧
    (okAt s 0 = true → fieldEq (wordAt s 0) mask want = true →
      t.work.new = s.work.new ∧ t.work.chk = s.work.chk ∧ [t.work.rx0, t.work.rx1] = bytesAt s 0 2) ∧
    (okAt s 0 = true → fieldEq (wordAt s 0) mask want = false →
      t.work.new = wordAt s 0 ||| want ∧ [t.work.tx0, t.work.tx1] = [hiByte t.work.new, loByte t.work.new] ∧
      (okAt s 1 = true → okAt s 2 = true →
        t.work.chk = wordAt s 2 ∧ [t.work.rx0, t.work.rx1] = bytesAt s 2 2))

/-- What the setters leave unchanged (R131, R132): `avail`, `bound`, and the working registers `cfg`, `raw`, `pcnt`,
`wcnt`; no sensor register is written but Config, and at most once. -/
def Obligations.SettersFrame : Prop :=
  ∀ (i : Instr) (s t : State), setterField i ≠ none → exec i s = .next t →
    commandFrame s t ∧ t.avail = s.avail ∧ t.bound = s.bound ∧ t.work.cfg = s.work.cfg ∧ t.work.raw = s.work.raw ∧
    t.work.pcnt = s.work.pcnt ∧ t.work.wcnt = s.work.wcnt ∧
    (∀ e ∈ added s t, e.isWrite = true → e.writesConfig = true) ∧ (added s t).countP Entry.isWrite ≤ 1

/-- A setter writes back every bit outside its field as it was read in step 1, bit 13 included, and sets its own bits on
top of those already set (R134, R136, R137). -/
def Obligations.SettersKeepTheOtherBits : Prop :=
  ∀ (i : Instr) (s t : State) (mask want : Word), setterField i = some (mask, want) → exec i s = .next t →
    ∀ e ∈ added s t, e.isWrite = true →
      okAt s 0 = true ∧ ∃ v ok, e = configWrite v ok ∧ v = wordAt s 0 ||| want ∧
        v &&& ~~~mask = wordAt s 0 &&& ~~~mask ∧ v.getLsbD 13 = (wordAt s 0).getLsbD 13 ∧
        v &&& wordAt s 0 = wordAt s 0

/-- The OR-only field set (R134), for an environment that keeps the field as it is written: success by short-circuit when
the field equals the request; after a write, success exactly when the request contains the field, else `VERIFY_ERR`; the
field written is the OR of both, every other bit is as read. The spec marks R134 as derived (from R130 and R93). -/
def Obligations.OrOnlySetterOutcomes : Prop :=
  ∀ (i : Instr) (s : State) (mask want : Word), setterField i = some (mask, want) → argumentBad i = false →
    s.bound = true → okAt s 0 = true →
    (wordAt s 0 &&& mask = want → ∃ t, exec i s = .next t ∧ t.rsp.st = .ok ∧
      eventsOf (added s t) = [configRead (readAt s 0 2)]) ∧
    (wordAt s 0 &&& mask ≠ want → okAt s 1 = true → okAt s 2 = true →
      wordAt s 2 &&& mask = (wordAt s 0 &&& mask) ||| want →
      ∃ t v, exec i s = .next t ∧
        t.rsp.st = (if (wordAt s 0 &&& mask) ||| want = want then .ok else .verifyErr) ∧
        eventsOf (added s t) = [configRead (readAt s 0 2), configWrite v true, configRead (readAt s 2 2)] ∧
        v &&& mask = (wordAt s 0 &&& mask) ||| want ∧ v &&& ~~~mask = wordAt s 0 &&& ~~~mask)

/-- Two setter calls with the same operand, one after the other (R135): when the first ended `OK` and the field still
holds the request, the second issues one read and no write; the first wrote once if it found the field different, else
not at all; when the second finds the field different it writes, as it does after a `VERIFY_ERR` that left it so. The spec
marks R135 as derived from R130. -/
def Obligations.SecondSetterCallShortCircuits : Prop :=
  ∀ (i : Instr) (s t : State) (mask want : Word), setterField i = some (mask, want) → argumentBad i = false →
    exec i s = .next t →
    (t.rsp.st = .ok → okAt t 0 = true → wordAt t 0 &&& mask = want →
      ∃ u, exec i t = .next u ∧ u.rsp.st = .ok ∧ eventsOf (added t u) = [configRead (readAt t 0 2)]) ∧
    (t.rsp.st = .ok → (added s t).countP Entry.isWrite = if wordAt s 0 &&& mask = want then 0 else 1) ∧
    (okAt t 0 = true → wordAt t 0 &&& mask ≠ want →
      ∃ u, exec i t = .next u ∧ (added t u).countP Entry.isWrite = 1)

/-! ## IS_CONV_DONE -/

/-- IS_CONV_DONE (R151, over ConvDone, R150): true exactly when the Config read is answered and bit 13 of it is set; a
failed read is false; `st` is always `OK`. That a null handle is false with no event is the spec's decision D14, marked in
R151 (notes/assumptions/13.md, UNVERIFIED). -/
def Obligations.IsConvDoneOutcome : Prop :=
  ∀ (hv : Bool) (s : State),
    if hv = false then
      ∃ t, exec (.isConvDone hv) s = .next t ∧ t.rsp.st = .ok ∧ t.rsp.flag = false ∧ t.work = s.work ∧
        t.log = s.log ++ [.phase .busy, .response t.rsp, .phase .idle]
    else if s.bound = false then exec (.isConvDone hv) s = .fault .unbound
    else
      ∃ t, exec (.isConvDone hv) s = .next t ∧ t.rsp.st = .ok ∧
        t.rsp.flag = (okAt s 0 && (wordAt s 0).getLsbD 13) ∧
        (okAt s 0 = true → t.work.cfg = wordAt s 0 ∧ [t.work.rx0, t.work.rx1] = bytesAt s 0 2) ∧
        t.log = s.log ++ [.phase .busy, configRead (readAt s 0 2), .response t.rsp, .phase .idle]

/-- What IS_CONV_DONE leaves unchanged (R150, R151): `avail`, `bound`, every working register but `rx` and `cfg`; no
sensor register is written. -/
def Obligations.IsConvDoneFrame : Prop :=
  ∀ (hv : Bool) (s t : State), exec (.isConvDone hv) s = .next t →
    commandFrame s t ∧ t.avail = s.avail ∧ t.bound = s.bound ∧
    (∃ rx0 rx1 cfg, t.work = { s.work with rx0 := rx0, rx1 := rx1, cfg := cfg }) ∧
    ∀ e ∈ added s t, e.isWrite = false

/-! ## GET_TEMP -/

/-- GET_TEMP on an unavailable or null handle (R161): the sentinel, `UNAVAILABLE`, no event, whatever else holds
(the spec's decisions D14 and D31). -/
def Obligations.GetTempAnswersTheSentinel : Prop :=
  ∀ (hv : Bool) (s : State), hv = false ∨ s.avail = false →
    ∃ t, exec (.getTemp hv) s = .next t ∧ t.rsp.tempF = 0xC37F0000 ∧ t.rsp.tempQ = 0x8080 ∧
      t.rsp.st = .unavailable ∧ t.work = s.work ∧
      t.log = s.log ++ [.phase .unavailable, .response t.rsp, .phase .idle]

/-- GET_TEMP on an available handle (R160, R162 to R166): both setters with their outcomes dropped, a poll of `k` trials
that ends at the first ready or with its budget, one read of Result, then the response: `OK`, the sample (free when its
read failed, notes/assumptions/6.md) and its binary32 pattern. The spec's decisions D12, D13 and D20. -/
def Obligations.GetTempAcquiresAndConverts : Prop :=
  ∀ s : State, s.avail = true → s.bound = true →
    ∃ k t, exec (.getTemp true) s = .next t ∧ 0 < k ∧ k ≤ Config.pollTrials ∧
      t.log = s.log ++ acquireEvents Config.cycForced s k ++
        [.phase .converted, .response t.rsp, .phase .idle] ∧
      (∀ j < k - 1, readyAt (s.skip (settersUse Config.cycForced s)) j = false) ∧
      (readyAt (s.skip (settersUse Config.cycForced s)) (k - 1) = true ∨ k = Config.pollTrials) ∧
      t.rsp.st = .ok ∧ t.rsp.tempF = tempF32 t.rsp.tempQ ∧ t.work.raw = t.rsp.tempQ ∧
      t.work.wcnt = k ∧
      (okAt s (settersUse Config.cycForced s + k) = true →
        t.rsp.tempQ = wordAt s (settersUse Config.cycForced s + k))

/-- The event counts of GET_TEMP on the available path (R169): 3 to `4 + POLL_TRIALS` reads of Config, at most 2 writes of
Config and at most 2 writes in all, exactly one read of Result, at most `POLL_TRIALS - 1` sleeps, no probe. The spec marks
R169 as derived. -/
def Obligations.GetTempEventCounts : Prop :=
  ∀ s t : State, s.avail = true → exec (.getTemp true) s = .next t →
    3 ≤ (added s t).countP Entry.readsConfig ∧ (added s t).countP Entry.readsConfig ≤ 4 + Config.pollTrials ∧
    (added s t).countP Entry.writesConfig ≤ 2 ∧ (added s t).countP Entry.isWrite ≤ 2 ∧
    (added s t).countP Entry.readsResult = 1 ∧ (added s t).countP Entry.isSleep ≤ Config.pollTrials - 1 ∧
    (added s t).countP Entry.isProbe = 0

/-- What GET_TEMP leaves unchanged (R160): `avail`, `bound` and `pcnt`; no sensor register is written but Config; on the
unavailable path no working register changes. -/
def Obligations.GetTempFrame : Prop :=
  ∀ (hv : Bool) (s t : State), exec (.getTemp hv) s = .next t →
    commandFrame s t ∧ t.avail = s.avail ∧ t.bound = s.bound ∧ t.work.pcnt = s.work.pcnt ∧
    ((hv && s.avail) = false → t.work = s.work) ∧
    ∀ e ∈ added s t, e.isWrite = true → e.writesConfig = true

/-- With `avail = 1`, the commands of R99 issued by hand produce the same bus events as GET_TEMP, sleeps apart, use the
same answers, and read the same sample. The spec marks R99 as derived. -/
def Obligations.GetTempMatchesTheCommandsByHand : Prop :=
  ∀ s : State, s.avail = true → s.bound = true →
    ∃ t u, exec (.getTemp true) s = .next t ∧ acquireByHand s = .next u ∧
      (eventsOf (added s t)).filter (fun e => !e.isSleep) = eventsOf (added s u) ∧
      t.env = u.env ∧ t.answered = u.answered ∧
      (u.rsp.st = .ok → ∃ b0 b1, u.rsp.rdata = [b0, b1] ∧ t.rsp.tempQ = joinBytes b0 b1)

/-! ## The codec and the converter -/

/-- The field masks are pairwise disjoint, the requested bits stay inside their field, and the tabulated values (R91,
R92). -/
def Obligations.FieldConstantsFitTheirFields : Prop :=
  drMask &&& modeMask = 0 ∧ drMask &&& cycMask = 0 ∧ modeMask &&& cycMask = 0 ∧
  (∀ m : Mode, modeBits m &&& ~~~modeMask = 0) ∧ (∀ c : BitVec 3, cycBits c &&& ~~~cycMask = 0) ∧
  [Mode.continuous, .shutdown, .continuousAlt, .oneShot].map modeBits = [0x0000, 0x0400, 0x0800, 0x0C00] ∧
  [0, 1, 2, 3, 4, 5, 6, 7].map cycBits = [0x0000, 0x0080, 0x0100, 0x0180, 0x0200, 0x0280, 0x0300, 0x0380]

/-- `ApplyField` sets bits and never clears one, stays inside the mask, and `IsReady` is bit 13 (R93). -/
def Obligations.ApplyFieldOnlySetsBits : Prop :=
  (∀ cur mask want : Word, applyField cur mask want &&& cur = cur ∧
    applyField cur mask want &&& ~~~mask = cur &&& ~~~mask) ∧
  ∀ v : Word, isReady v = v.getLsbD 13

/-- A value crosses the bus high byte first and is read back as it was (R55, R90). -/
def Obligations.BytesJoinBigEndian : Prop :=
  (∀ v : Word, joinBytes (hiByte v) (loByte v) = v) ∧
  ∀ b0 b1 : Byte, hiByte (joinBytes b0 b1) = b0 ∧ loByte (joinBytes b0 b1) = b1 ∧
    (joinBytes b0 b1).toNat = 256 * b0.toNat + b1.toNat

/-- The converter is exact for every sample: both forms stand for `int16(raw) / 128`, and -0.0 is never produced (R95,
R167; the binary32 layout is general knowledge, notes/assumptions/21.md). -/
def Obligations.ConverterIsExact : Prop :=
  ∀ raw : Word, f32Value (tempF32 raw) = (raw.toInt : Rat) / 128 ∧ q87Value raw = (raw.toInt : Rat) / 128 ∧
    tempF32 raw ≠ 0x80000000

/-- The worked values of the converter (R168, which the spec marks as derived). -/
def Obligations.ConverterWorkedValues : Prop :=
  tempF32 0x0190 = 0x40480000 ∧ tempF32 0xFF00 = 0xC0000000 ∧ tempF32 0x0000 = 0x00000000 ∧
  tempF32 0x0001 = 0x3C000000 ∧ tempF32 0xFFFF = 0xBC000000 ∧ tempF32 0x0080 = 0x3F800000 ∧
  tempF32 0x0C80 = 0x41C80000 ∧ tempF32 0x7FFF = 0x437FFE00 ∧ tempF32 0x8000 = 0xC3800000 ∧
  tempF32 0x8080 = 0xC37F0000

/-- The sentinel is the number -255 in both forms, and the real sample 0x8080 has the same encodings (R96, which the
spec marks as derived). That the pattern 0xC37F0000 stands for -255 rests on the binary32 layout, which is general knowledge
(notes/assumptions/21.md, PRESUMED). -/
def Obligations.SentinelIsMinus255 : Prop :=
  f32Value 0xC37F0000 = -255 ∧ q87Value 0x8080 = -255 ∧ (0x8080 : Word).toInt = -32640 ∧
  encodeF32 (-32640) = 0xC37F0000 ∧ sentinelF = 0xC37F0000 ∧ sentinelQ = 0x8080
end

