-- ==== Sys2Proof/Laws/Encoding.lean ====
section
/-! SUPPORT. The fields of a packed command word, each once (30_encoding R80). -/

namespace Sys2Proof

section
variable (op : BitVec 4) (hv bv tv : Bool) (reg len arg : Byte)

@[simp] theorem opField_pack : opField (pack op hv bv tv reg len arg) = op := by
  ext i hi
  simp only [opField, pack, BitVec.getElem_extractLsb', BitVec.getLsbD_append]
  simp [show ¬ 28 + i < 8 by omega, show ¬ 28 + i - 8 < 8 by omega, show ¬ 28 + i - 8 - 8 < 8 by omega,
    show ¬ 28 + i - 8 - 8 - 8 < 1 by omega, show ¬ 28 + i - 8 - 8 - 8 - 1 < 1 by omega,
    show ¬ 28 + i - 8 - 8 - 8 - 1 - 1 < 1 by omega, show ¬ 28 + i - 8 - 8 - 8 - 1 - 1 - 1 < 1 by omega,
    show 28 + i - 8 - 8 - 8 - 1 - 1 - 1 - 1 = i by omega, BitVec.getLsbD_eq_getElem, hi]

@[simp] theorem hvBit_pack : hvBit (pack op hv bv tv reg len arg) = hv := by
  simp only [hvBit, pack, BitVec.getLsbD_append]; simp

@[simp] theorem bvBit_pack : bvBit (pack op hv bv tv reg len arg) = bv := by
  simp only [bvBit, pack, BitVec.getLsbD_append]; simp

@[simp] theorem tvBit_pack : tvBit (pack op hv bv tv reg len arg) = tv := by
  simp only [tvBit, pack, BitVec.getLsbD_append]; simp

@[simp] theorem regField_pack : regField (pack op hv bv tv reg len arg) = reg := by
  ext i hi
  simp only [regField, pack, BitVec.getElem_extractLsb', BitVec.getLsbD_append]
  simp [show ¬ 16 + i < 8 by omega, show ¬ 16 + i - 8 < 8 by omega, show 16 + i - 8 - 8 = i by omega, BitVec.getLsbD_eq_getElem, hi]

@[simp] theorem lenField_pack : lenField (pack op hv bv tv reg len arg) = len := by
  ext i hi
  simp only [lenField, pack, BitVec.getElem_extractLsb', BitVec.getLsbD_append]
  simp [BitVec.getLsbD_eq_getElem, hi]

theorem argField_pack : argField (pack op hv bv tv reg len arg) = arg := by
  ext i hi
  simp only [argField, pack, BitVec.getElem_extractLsb', BitVec.getLsbD_append]
  simp [hi, BitVec.getLsbD_eq_getElem]

/-- The operand of SET_MODE is the low two bits of `ARG` (R85). -/
theorem modeField_eq (w : CmdWord) : modeField w = (argField w).setWidth 2 := by
  ext i hi
  simp [modeField, argField, show i < 8 by omega]

/-- The operand of SET_CYCLE is the low three bits of `ARG` (R85). -/
theorem cycField_eq (w : CmdWord) : cycField w = (argField w).setWidth 3 := by
  ext i hi
  simp [cycField, argField, show i < 8 by omega]

@[simp] theorem modeField_pack : modeField (pack op hv bv tv reg len arg) = arg.setWidth 2 := by
  rw [modeField_eq, argField_pack]

@[simp] theorem cycField_pack : cycField (pack op hv bv tv reg len arg) = arg.setWidth 3 := by
  rw [cycField_eq, argField_pack]

end

@[simp] theorem Mode.ofCode_code (m : Mode) : Mode.ofCode m.code = m := by cases m <;> rfl

@[simp] theorem Mode.code_ofCode (m : BitVec 2) : (Mode.ofCode m).code = m := by revert m; decide

/-- A WRITE_REGS that does not read its byte string takes no byte (R88). -/
theorem wdataCount_of_not_read {hv bv : Bool} {len : Byte} (h : wdataRead hv bv len = false) :
    wdataCount hv bv len = 0 := by
  simp [wdataCount, h]

end Sys2Proof
end

