-- ==== Sys2Proof/Laws/State.lean ====
section
/-! SUPPORT. One lemma per field of the state and update of it, each true by unfolding, so that no later proof unfolds a
record update. The updates of working registers are updates of the field `work`. -/

namespace Sys2Proof.Machine

variable (s : State)

/-! ## record -/

@[simp] theorem State.record_avail (e : Entry) : (s.record e).avail = s.avail := rfl
@[simp] theorem State.record_bound (e : Entry) : (s.record e).bound = s.bound := rfl
@[simp] theorem State.record_ph (e : Entry) : (s.record e).ph = s.ph := rfl
@[simp] theorem State.record_work (e : Entry) : (s.record e).work = s.work := rfl
@[simp] theorem State.record_rsp (e : Entry) : (s.record e).rsp = s.rsp := rfl
@[simp] theorem State.record_host (e : Entry) : (s.record e).host = s.host := rfl
@[simp] theorem State.record_env (e : Entry) : (s.record e).env = s.env := rfl
@[simp] theorem State.record_answered (e : Entry) : (s.record e).answered = s.answered := rfl
@[simp] theorem State.record_draws (e : Entry) : (s.record e).draws = s.draws := rfl
@[simp] theorem State.record_log (e : Entry) : (s.record e).log = s.log ++ [e] := rfl

/-! ## setPh -/

@[simp] theorem State.setPh_avail (p : Phase) : (s.setPh p).avail = s.avail := rfl
@[simp] theorem State.setPh_bound (p : Phase) : (s.setPh p).bound = s.bound := rfl
@[simp] theorem State.setPh_ph (p : Phase) : (s.setPh p).ph = p := rfl
@[simp] theorem State.setPh_work (p : Phase) : (s.setPh p).work = s.work := rfl
@[simp] theorem State.setPh_rsp (p : Phase) : (s.setPh p).rsp = s.rsp := rfl
@[simp] theorem State.setPh_host (p : Phase) : (s.setPh p).host = s.host := rfl
@[simp] theorem State.setPh_env (p : Phase) : (s.setPh p).env = s.env := rfl
@[simp] theorem State.setPh_answered (p : Phase) : (s.setPh p).answered = s.answered := rfl
@[simp] theorem State.setPh_draws (p : Phase) : (s.setPh p).draws = s.draws := rfl
@[simp] theorem State.setPh_log (p : Phase) : (s.setPh p).log = s.log ++ [.phase p] := rfl

/-! ## setAvail -/

@[simp] theorem State.setAvail_avail (v : Bool) : (s.setAvail v).avail = v := rfl
@[simp] theorem State.setAvail_bound (v : Bool) : (s.setAvail v).bound = s.bound := rfl
@[simp] theorem State.setAvail_ph (v : Bool) : (s.setAvail v).ph = s.ph := rfl
@[simp] theorem State.setAvail_work (v : Bool) : (s.setAvail v).work = s.work := rfl
@[simp] theorem State.setAvail_rsp (v : Bool) : (s.setAvail v).rsp = s.rsp := rfl
@[simp] theorem State.setAvail_host (v : Bool) : (s.setAvail v).host = s.host := rfl
@[simp] theorem State.setAvail_env (v : Bool) : (s.setAvail v).env = s.env := rfl
@[simp] theorem State.setAvail_answered (v : Bool) : (s.setAvail v).answered = s.answered := rfl
@[simp] theorem State.setAvail_draws (v : Bool) : (s.setAvail v).draws = s.draws := rfl
@[simp] theorem State.setAvail_log (v : Bool) : (s.setAvail v).log = s.log := rfl

/-! ## setBound -/

@[simp] theorem State.setBound_avail (v : Bool) : (s.setBound v).avail = s.avail := rfl
@[simp] theorem State.setBound_bound (v : Bool) : (s.setBound v).bound = v := rfl
@[simp] theorem State.setBound_ph (v : Bool) : (s.setBound v).ph = s.ph := rfl
@[simp] theorem State.setBound_work (v : Bool) : (s.setBound v).work = s.work := rfl
@[simp] theorem State.setBound_rsp (v : Bool) : (s.setBound v).rsp = s.rsp := rfl
@[simp] theorem State.setBound_host (v : Bool) : (s.setBound v).host = s.host := rfl
@[simp] theorem State.setBound_env (v : Bool) : (s.setBound v).env = s.env := rfl
@[simp] theorem State.setBound_answered (v : Bool) : (s.setBound v).answered = s.answered := rfl
@[simp] theorem State.setBound_draws (v : Bool) : (s.setBound v).draws = s.draws := rfl
@[simp] theorem State.setBound_log (v : Bool) : (s.setBound v).log = s.log := rfl

/-! ## setWork -/

@[simp] theorem State.setWork_avail (w : Work) : (s.setWork w).avail = s.avail := rfl
@[simp] theorem State.setWork_bound (w : Work) : (s.setWork w).bound = s.bound := rfl
@[simp] theorem State.setWork_ph (w : Work) : (s.setWork w).ph = s.ph := rfl
@[simp] theorem State.setWork_work (w : Work) : (s.setWork w).work = w := rfl
@[simp] theorem State.setWork_rsp (w : Work) : (s.setWork w).rsp = s.rsp := rfl
@[simp] theorem State.setWork_host (w : Work) : (s.setWork w).host = s.host := rfl
@[simp] theorem State.setWork_env (w : Work) : (s.setWork w).env = s.env := rfl
@[simp] theorem State.setWork_answered (w : Work) : (s.setWork w).answered = s.answered := rfl
@[simp] theorem State.setWork_draws (w : Work) : (s.setWork w).draws = s.draws := rfl
@[simp] theorem State.setWork_log (w : Work) : (s.setWork w).log = s.log := rfl

/-! ## setRsp -/

@[simp] theorem State.setRsp_avail (r : Rsp) : (s.setRsp r).avail = s.avail := rfl
@[simp] theorem State.setRsp_bound (r : Rsp) : (s.setRsp r).bound = s.bound := rfl
@[simp] theorem State.setRsp_ph (r : Rsp) : (s.setRsp r).ph = s.ph := rfl
@[simp] theorem State.setRsp_work (r : Rsp) : (s.setRsp r).work = s.work := rfl
@[simp] theorem State.setRsp_rsp (r : Rsp) : (s.setRsp r).rsp = r := rfl
@[simp] theorem State.setRsp_host (r : Rsp) : (s.setRsp r).host = s.host := rfl
@[simp] theorem State.setRsp_env (r : Rsp) : (s.setRsp r).env = s.env := rfl
@[simp] theorem State.setRsp_answered (r : Rsp) : (s.setRsp r).answered = s.answered := rfl
@[simp] theorem State.setRsp_draws (r : Rsp) : (s.setRsp r).draws = s.draws := rfl
@[simp] theorem State.setRsp_log (r : Rsp) : (s.setRsp r).log = s.log := rfl

/-! ## setHost -/

@[simp] theorem State.setHost_avail (h : List HostInput) : (s.setHost h).avail = s.avail := rfl
@[simp] theorem State.setHost_bound (h : List HostInput) : (s.setHost h).bound = s.bound := rfl
@[simp] theorem State.setHost_ph (h : List HostInput) : (s.setHost h).ph = s.ph := rfl
@[simp] theorem State.setHost_work (h : List HostInput) : (s.setHost h).work = s.work := rfl
@[simp] theorem State.setHost_rsp (h : List HostInput) : (s.setHost h).rsp = s.rsp := rfl
@[simp] theorem State.setHost_host (h : List HostInput) : (s.setHost h).host = h := rfl
@[simp] theorem State.setHost_env (h : List HostInput) : (s.setHost h).env = s.env := rfl
@[simp] theorem State.setHost_answered (h : List HostInput) : (s.setHost h).answered = s.answered := rfl
@[simp] theorem State.setHost_draws (h : List HostInput) : (s.setHost h).draws = s.draws := rfl
@[simp] theorem State.setHost_log (h : List HostInput) : (s.setHost h).log = s.log := rfl

/-! ## tookDraw -/

@[simp] theorem State.tookDraw_avail : (s.tookDraw).avail = s.avail := rfl
@[simp] theorem State.tookDraw_bound : (s.tookDraw).bound = s.bound := rfl
@[simp] theorem State.tookDraw_ph : (s.tookDraw).ph = s.ph := rfl
@[simp] theorem State.tookDraw_work : (s.tookDraw).work = s.work := rfl
@[simp] theorem State.tookDraw_rsp : (s.tookDraw).rsp = s.rsp := rfl
@[simp] theorem State.tookDraw_host : (s.tookDraw).host = s.host := rfl
@[simp] theorem State.tookDraw_env : (s.tookDraw).env = s.env := rfl
@[simp] theorem State.tookDraw_answered : (s.tookDraw).answered = s.answered := rfl
@[simp] theorem State.tookDraw_draws : (s.tookDraw).draws = s.draws + 1 := rfl
@[simp] theorem State.tookDraw_log : (s.tookDraw).log = s.log := rfl

/-! ## popAnswer -/

@[simp] theorem State.popAnswer_avail : (s.popAnswer).avail = s.avail := rfl
@[simp] theorem State.popAnswer_bound : (s.popAnswer).bound = s.bound := rfl
@[simp] theorem State.popAnswer_ph : (s.popAnswer).ph = s.ph := rfl
@[simp] theorem State.popAnswer_work : (s.popAnswer).work = s.work := rfl
@[simp] theorem State.popAnswer_rsp : (s.popAnswer).rsp = s.rsp := rfl
@[simp] theorem State.popAnswer_host : (s.popAnswer).host = s.host := rfl
@[simp] theorem State.popAnswer_env : (s.popAnswer).env = s.env.tail := rfl
@[simp] theorem State.popAnswer_answered : (s.popAnswer).answered = s.answered + 1 := rfl
@[simp] theorem State.popAnswer_draws : (s.popAnswer).draws = s.draws := rfl
@[simp] theorem State.popAnswer_log : (s.popAnswer).log = s.log := rfl

/-! ## The response and the end of a command -/

section
variable (st : Status) (flag : Option Bool) (temp : Option (BitVec 32 × Word)) (rdata : Option (List Byte)) (k : Nat)

@[simp] theorem response_st : (response st flag temp rdata k).st = st := rfl
@[simp] theorem response_flag (b : Bool) : (response st (some b) temp rdata k).flag = b := rfl
@[simp] theorem response_tempF (f : BitVec 32) (q : Word) : (response st flag (some (f, q)) rdata k).tempF = f := rfl
@[simp] theorem response_tempQ (f : BitVec 32) (q : Word) : (response st flag (some (f, q)) rdata k).tempQ = q := rfl
@[simp] theorem response_rdata (b : List Byte) : (response st flag temp (some b) k).rdata = b := rfl

@[simp] theorem finish_avail : (finish st flag temp rdata s).avail = s.avail := rfl
@[simp] theorem finish_bound : (finish st flag temp rdata s).bound = s.bound := rfl
@[simp] theorem finish_ph : (finish st flag temp rdata s).ph = .idle := rfl
@[simp] theorem finish_work : (finish st flag temp rdata s).work = s.work := rfl
@[simp] theorem finish_rsp : (finish st flag temp rdata s).rsp = response st flag temp rdata s.draws := rfl
@[simp] theorem finish_host : (finish st flag temp rdata s).host = s.host := rfl
@[simp] theorem finish_env : (finish st flag temp rdata s).env = s.env := rfl
@[simp] theorem finish_answered : (finish st flag temp rdata s).answered = s.answered := rfl
@[simp] theorem finish_draws : (finish st flag temp rdata s).draws = s.draws + 1 := rfl
@[simp] theorem finish_log : (finish st flag temp rdata s).log = s.log ++ [.response (response st flag temp rdata s.draws), .phase .idle] := by
  simp [finish, respond]

end

section
variable (e : Status)

@[simp] theorem raiseError_avail : (raiseError e s).avail = s.avail := rfl
@[simp] theorem raiseError_bound : (raiseError e s).bound = s.bound := rfl
@[simp] theorem raiseError_ph : (raiseError e s).ph = .idle := rfl
@[simp] theorem raiseError_work : (raiseError e s).work = s.work := rfl
@[simp] theorem raiseError_rsp : (raiseError e s).rsp = response e none none none s.draws := rfl
@[simp] theorem raiseError_host : (raiseError e s).host = s.host := rfl
@[simp] theorem raiseError_env : (raiseError e s).env = s.env := rfl
@[simp] theorem raiseError_answered : (raiseError e s).answered = s.answered := rfl
@[simp] theorem raiseError_draws : (raiseError e s).draws = s.draws + 1 := rfl
@[simp] theorem raiseError_log : (raiseError e s).log = s.log ++ [.response (response e none none none s.draws), .phase .idle] := by
  simp [raiseError]

end

end Sys2Proof.Machine
end

