-- ==== Sys2Proof/Laws/Ops.lean ====
section
/-! SUPPORT. What the shared operations do, said once. `Did es s t` says that an operation appended the entries `es` to the
log, used one answer per answered event, and left `avail`, `bound`, `rsp` and the host's inputs alone. -/

namespace Sys2Proof.Machine

/-! ## `Did` -/

/-- From `s` to `t` the entries `es` were logged, one answer was used per answered event, and `avail`, `bound`, `rsp` and
`host` did not change. -/
structure Did (es : List Entry) (s t : State) : Prop where
  avail : t.avail = s.avail
  bound : t.bound = s.bound
  rsp : t.rsp = s.rsp
  host : t.host = s.host
  log : t.log = s.log ++ es
  env : t.env = s.env.drop (answeredOf es)
  answered : t.answered = s.answered + answeredOf es

theorem answeredOf_append (es fs : List Entry) : answeredOf (es ++ fs) = answeredOf es + answeredOf fs :=
  List.countP_append

@[simp] theorem answeredOf_nil : answeredOf [] = 0 := rfl

@[simp] theorem answeredOf_cons (e : Entry) (es : List Entry) :
    answeredOf (e :: es) = answeredOf es + (if e.isAnswered then 1 else 0) := by
  simp [answeredOf, List.countP_cons]

theorem Did.refl (s : State) : Did [] s s := by constructor <;> simp

theorem Did.trans {es fs : List Entry} {s t u : State} (h : Did es s t) (k : Did fs t u) : Did (es ++ fs) s u where
  avail := k.avail.trans h.avail
  bound := k.bound.trans h.bound
  rsp := k.rsp.trans h.rsp
  host := k.host.trans h.host
  log := by rw [k.log, h.log, List.append_assoc]
  env := by rw [k.env, h.env, List.drop_drop, answeredOf_append]
  answered := by rw [k.answered, h.answered, answeredOf_append, Nat.add_assoc]

theorem did_setWork (s : State) (w : Work) : Did [] s (s.setWork w) := by constructor <;> simp

theorem did_tookDraw (s : State) : Did [] s s.tookDraw := by constructor <;> simp

theorem did_setPh (s : State) (p : Phase) : Did [.phase p] s (s.setPh p) := by
  constructor <;> simp [Entry.isAnswered]

theorem did_sleep (s : State) : Did [.sleep Config.pollInterval] s (sleep s) := by
  constructor <;> simp [sleep, Entry.isAnswered]

theorem did_probe (s : State) : Did [probeEvent s.answerOk] s (probe s).2 := by
  constructor <;> simp [probe, probeEvent, Entry.isAnswered]

theorem did_memRead (reg : Byte) (n : Nat) (s : State) :
    Did [.memRead Config.devAddr reg n Config.xferWait (s.readAnswer n)] s (memRead reg n s).2 := by
  constructor <;> simp [memRead, Entry.isAnswered]

theorem did_memWrite (reg : Byte) (n : Nat) (b : List Byte) (s : State) :
    Did [.memWrite Config.devAddr reg n b Config.xferWait s.answerOk] s (memWrite reg n b s).2 := by
  constructor <;> simp [memWrite, Entry.isAnswered]

/-- An operation that only logs leaves the log of the command as it says. -/
theorem Did.added {es : List Entry} {s t : State} (h : Did es s t) : added s t = es := by
  simp [Machine.added, h.log]

/-- The coming answers after an operation are those after the ones it used. -/
theorem Did.answerOk {es : List Entry} {s t : State} (h : Did es s t) (k : Nat) :
    okAt t k = okAt s (answeredOf es + k) := by
  simp [okAt, State.skip, State.answerOk, h.env, h.answered, List.drop_drop, Nat.add_assoc]

theorem Did.answerByte {es : List Entry} {s t : State} (h : Did es s t) (k i : Nat) :
    (t.skip k).answerByte i = (s.skip (answeredOf es + k)).answerByte i := by
  simp [State.skip, State.answerByte, h.env, h.answered, List.drop_drop, Nat.add_assoc]

theorem Did.wordAt {es : List Entry} {s t : State} (h : Did es s t) (k : Nat) :
    wordAt t k = wordAt s (answeredOf es + k) := by
  simp [Machine.wordAt, h.answerByte]

theorem Did.bytesAt {es : List Entry} {s t : State} (h : Did es s t) (k n : Nat) :
    bytesAt t k n = bytesAt s (answeredOf es + k) n := by
  have hb : (t.skip k).answerByte = (s.skip (answeredOf es + k)).answerByte := funext (h.answerByte k)
  simp [Machine.bytesAt, State.answerBytes, hb]

theorem Did.readAt {es : List Entry} {s t : State} (h : Did es s t) (k n : Nat) :
    readAt t k n = readAt s (answeredOf es + k) n := by
  simp [Machine.readAt, h.answerOk, h.bytesAt]

theorem okAt_zero (s : State) : okAt s 0 = s.answerOk := by simp [okAt, State.skip]

@[simp] theorem answerBytes_length (s : State) (n : Nat) : (s.answerBytes n).length = n := by
  simp [State.answerBytes]

/-- What a read gets, in the terms of claims. -/
theorem readAnswer_eq (s : State) (n : Nat) : s.readAnswer n = readAt s 0 n := by
  simp [State.readAnswer, Machine.readAt, okAt_zero, bytesAt, State.skip]

theorem readAt_fail {s : State} {k : Nat} (h : okAt s k = false) (n : Nat) : readAt s k n = none := by
  simp [readAt, h]

/-- A 2-byte read that is answered `Ok` gives the two bytes whose value is `wordAt` (R55). -/
theorem readAt_two {s : State} {k : Nat} (h : okAt s k = true) :
    readAt s k 2 = some [(s.skip k).answerByte 0, (s.skip k).answerByte 1] := by
  simp only [readAt, h, bytesAt]; rfl

/-- A 2-byte answer is the two bytes in wire order (R52, R55). -/
theorem answerBytes_two (s : State) : s.answerBytes 2 = [s.answerByte 0, s.answerByte 1] := rfl

@[simp] theorem okAt_setPh (s : State) (p : Phase) (k : Nat) : okAt (s.setPh p) k = okAt s k := rfl
@[simp] theorem wordAt_setPh (s : State) (p : Phase) (k : Nat) : wordAt (s.setPh p) k = wordAt s k := rfl
@[simp] theorem readAt_setPh (s : State) (p : Phase) (k n : Nat) : readAt (s.setPh p) k n = readAt s k n := rfl
@[simp] theorem okAt_setWork (s : State) (w : Work) (k : Nat) : okAt (s.setWork w) k = okAt s k := rfl
@[simp] theorem wordAt_setWork (s : State) (w : Work) (k : Nat) : wordAt (s.setWork w) k = wordAt s k := rfl
@[simp] theorem readAt_setWork (s : State) (w : Work) (k n : Nat) : readAt (s.setWork w) k n = readAt s k n := rfl

end Sys2Proof.Machine
end

