-- ==== Sys2Proof/Laws/PerInstr.lean ====
section
/-! SUPPORT. Statements made per command: one family, one lemma per constructor. -/

namespace Sys2Proof.Laws.EncodesOpcode

/-- The encoded word carries the command's opcode in `W[31:28]`, the bits a decoder selects by (30_encoding R81). -/
def Statement (i : Instr) : Prop := opField (encode i).word = i.opcode

theorem init (hv tv : Bool) : Statement (.init hv tv) := opField_pack ..
theorem isPresent (hv : Bool) : Statement (.isPresent hv) := opField_pack ..
theorem readRegs (hv bv : Bool) (reg len : Byte) : Statement (.readRegs hv bv reg len) := opField_pack ..
theorem writeRegs (hv bv : Bool) (reg len : Byte) (wdata : List Byte) :
    Statement (.writeRegs hv bv reg len wdata) := opField_pack ..
theorem setMode (hv : Bool) (m : Mode) : Statement (.setMode hv m) := opField_pack ..
theorem setCycle (hv : Bool) (c : BitVec 3) : Statement (.setCycle hv c) := opField_pack ..
theorem isConvDone (hv : Bool) : Statement (.isConvDone hv) := opField_pack ..
theorem getTemp (hv : Bool) : Statement (.getTemp hv) := opField_pack ..
theorem reserved : Statement .reserved := opField_pack ..

end Sys2Proof.Laws.EncodesOpcode
end

