-- ==== Sys2Proof/Laws/Port.lean ====
section
/-! SUPPORT. What a reset during a command keeps of the command's log (70_reset_and_hazards R211). -/

namespace Sys2Proof.Machine

/-- What stands before the cut is a prefix of the command's log. -/
theorem cutAfter_prefix (k : Nat) (es : List Entry) : cutAfter k es <+: es := by
  induction es generalizing k with
  | nil => exact List.nil_prefix
  | cons e es ih =>
    unfold cutAfter
    split
    · exact List.nil_prefix
    · split
      · cases k with
        | zero => exact List.nil_prefix
        | succ k => exact (List.prefix_cons_inj e).2 (ih k)
      · exact (List.prefix_cons_inj e).2 (ih k)

/-- No response stands before the cut. -/
theorem responsesOf_cutAfter (k : Nat) (es : List Entry) : responsesOf (cutAfter k es) = [] := by
  induction es generalizing k with
  | nil => rfl
  | cons e es ih =>
    unfold cutAfter
    split
    · rfl
    · rename_i h
      have keep (es' : List Entry) : responsesOf (e :: es') = responsesOf es' := by simp [responsesOf, h]
      split
      · cases k with
        | zero => rfl
        | succ k => exact (keep _).trans (ih k)
      · exact (keep _).trans (ih k)

/-- Of a log without a response and what follows its response, the cut keeps the first `k` events, all when there are
fewer. -/
theorem length_eventsOf_cutAfter (k : Nat) (es rest : List Entry) (r : Rsp) (h : responsesOf es = []) :
    (eventsOf (cutAfter k (es ++ .response r :: rest))).length = min k (eventsOf es).length := by
  induction es generalizing k with
  | nil => simp [cutAfter, Entry.isResponse, eventsOf]
  | cons e es ih =>
    have hr : e.isResponse = false := by
      cases hc : e.isResponse with
      | false => rfl
      | true => simp [responsesOf, hc] at h
    have hrest : responsesOf es = [] := by simpa [responsesOf, List.filter_cons, hr] using h
    simp only [List.cons_append, cutAfter, hr]
    by_cases he : e.isEvent = true
    · cases k with
      | zero => simp [he, eventsOf]
      | succ k => simp [he, eventsOf] at ih ⊢; rw [ih k hrest]
    · simp [he, eventsOf] at ih ⊢; rw [ih k hrest]

/-- A reset that cuts a command leaves the block as after reset, with what stood before the cut, then the reset, in the
log, and touches neither the coming inputs nor the answers not used (R41, R211, R212). -/
theorem abandon_spec (k : Nat) (s t : State) :
    (abandon k s t).avail = false ∧ (abandon k s t).bound = false ∧ (abandon k s t).ph = .idle ∧
    (abandon k s t).host = s.host ∧ (abandon k s t).log = s.log ++ cutAfter k (added s t) ++ [.reset] ∧
    (abandon k s t).env = s.env.drop (answeredOf (cutAfter k (added s t))) ∧
    (abandon k s t).answered = s.answered + answeredOf (cutAfter k (added s t)) :=
  ⟨rfl, rfl, rfl, rfl, rfl, rfl, rfl⟩

end Sys2Proof.Machine
end

