-- ==== Sys2Proof/Laws/Procedures.lean ====
section
/-! SUPPORT. One lemma per procedure that says everything it can do, so that no later proof unfolds it: the 2-byte read
and write (R120 to R122), the probe loop (R110), the setter (R130), the data-ready check (R150), the poll (R164) and the
sample read (R165). -/

namespace Sys2Proof.Machine

/-! ## Register read and write -/

theorem regRead_bad {hv bv : Bool} {len : Int} (h : argsBad hv bv len = true) (reg : Byte) (s : State) :
    regRead hv bv reg len s = .raise .argErr s := by
  simp [regRead, h]

theorem regRead_unbound {hv bv : Bool} {len : Int} (h : argsBad hv bv len = false) (reg : Byte) {s : State}
    (hb : s.bound = false) : regRead hv bv reg len s = .fault .unbound := by
  simp [regRead, h, hb]

theorem regRead_bound {hv bv : Bool} {len : Int} (h : argsBad hv bv len = false) (reg : Byte) {s : State}
    (hb : s.bound = true) :
    regRead hv bv reg len s =
      if s.answerOk then .ret (s.answerBytes len.toNat) (memRead reg len.toNat s).2
      else .raise .xportErr (memRead reg len.toNat s).2 := by
  cases hk : s.answerOk <;> simp [regRead, h, hb, memRead, State.readAnswer, hk]

theorem regWrite_bad {hv bv : Bool} {len : Int} (h : argsBad hv bv len = true) (reg : Byte) (b : List Byte)
    (s : State) : regWrite hv bv reg len b s = .raise .argErr s := by
  simp [regWrite, h]

theorem regWrite_unbound {hv bv : Bool} {len : Int} (h : argsBad hv bv len = false) (reg : Byte) (b : List Byte)
    {s : State} (hb : s.bound = false) : regWrite hv bv reg len b s = .fault .unbound := by
  simp [regWrite, h, hb]

theorem regWrite_bound {hv bv : Bool} {len : Int} (h : argsBad hv bv len = false) (reg : Byte) (b : List Byte)
    {s : State} (hb : s.bound = true) :
    regWrite hv bv reg len b s =
      if s.answerOk then .ret () (memWrite reg len.toNat b s).2 else .raise .xportErr (memWrite reg len.toNat b s).2 := by
  cases hk : s.answerOk <;> simp [regWrite, h, hb, memWrite, hk]

theorem argsBad_pair : argsBad true true 2 = false := by decide

theorem argsBad_null (bv : Bool) (len : Int) : argsBad false bv len = true := by simp [argsBad]

theorem readPair_null (reg : Byte) (s : State) : readPair false reg s = .raise .argErr s := by
  simp [readPair, regRead_bad (argsBad_null true 2), Proc.andThen]

theorem readPair_unbound (reg : Byte) {s : State} (hb : s.bound = false) :
    readPair true reg s = .fault .unbound := by
  simp [readPair, regRead_unbound argsBad_pair reg hb, Proc.andThen]

/-- A 2-byte read of a bound block: one event; the value of the answer, or `XPORT_ERR`; only `rx` is written. -/
theorem readPair_bound (reg : Byte) {s : State} (hb : s.bound = true) :
    ∃ t, readPair true reg s = (if okAt s 0 then .ret (wordAt s 0) t else .raise .xportErr t) ∧
      Did [.memRead Config.devAddr reg 2 Config.xferWait (readAt s 0 2)] s t ∧ t.ph = s.ph ∧ t.draws = s.draws ∧
      ∃ rx0 rx1, t.work = { s.work with rx0 := rx0, rx1 := rx1 } ∧
        (okAt s 0 = true → [rx0, rx1] = bytesAt s 0 2) ∧ (okAt s 0 = false → t.work = s.work) := by
  have hd := did_memRead reg 2 s
  rw [readAnswer_eq] at hd
  rw [readPair, regRead_bound argsBad_pair reg hb, ← okAt_zero]
  cases h0 : okAt s 0 with
  | false => exact ⟨_, rfl, hd, rfl, rfl, s.work.rx0, s.work.rx1, rfl, by simp, fun _ => rfl⟩
  | true =>
    exact ⟨_, rfl, hd.trans (did_setWork _ _), rfl, rfl, s.answerByte 0, s.answerByte 1, rfl, fun _ => rfl, by simp⟩

/-- A 2-byte write of a bound block: one event; a return or `XPORT_ERR`; only `tx` is written. -/
theorem writePair_bound (reg : Byte) (v : Word) {s : State} (hb : s.bound = true) :
    ∃ t, writePair true reg v s = (if okAt s 0 then .ret () t else .raise .xportErr t) ∧
      Did [.memWrite Config.devAddr reg 2 [hiByte v, loByte v] Config.xferWait (okAt s 0)] s t ∧ t.ph = s.ph ∧
      t.draws = s.draws ∧ t.work = { s.work with tx0 := hiByte v, tx1 := loByte v } := by
  set s₁ := s.setWork { s.work with tx0 := hiByte v, tx1 := loByte v } with hs₁
  have hd := (did_setWork s { s.work with tx0 := hiByte v, tx1 := loByte v }).trans
    (did_memWrite reg 2 [hiByte v, loByte v] s₁)
  have hok : s₁.answerOk = okAt s 0 := by rw [okAt_zero]; rfl
  rw [hok, List.nil_append] at hd
  have hw : writePair true reg v s = _ := regWrite_bound argsBad_pair reg _ (by simpa [hs₁] using hb)
  rw [hok] at hw
  exact ⟨_, hw, hd, rfl, rfl, rfl⟩

/-! ## The probe loop -/

/-- The probe loop with `n` attempts left, whatever the answers: it counts its attempts in `pcnt`, logs nothing but probe
attempts, at most `n` of them, and changes no other working register, `ph` or the draw counter. -/
theorem probeFrom_did (n : Nat) (s : State) :
    ∃ k, k ≤ n ∧
      Did ((List.range k).map fun j => probeEvent (okAt s j)) s (probeFrom n s).2 ∧
      (probeFrom n s).2.work = { s.work with pcnt := s.work.pcnt + k } ∧
      (probeFrom n s).2.ph = s.ph ∧ (probeFrom n s).2.draws = s.draws ∧
      ((probeFrom n s).1 = true → 0 < k ∧ okAt s (k - 1) = true ∧ ∀ j < k - 1, okAt s j = false) ∧
      ((probeFrom n s).1 = false → k = n ∧ ∀ j < k, okAt s j = false) := by
  induction n generalizing s with
  | zero => exact ⟨0, by simp [probeFrom, Did.refl]⟩
  | succ n ih =>
    set s₁ := s.setWork { s.work with pcnt := s.work.pcnt + 1 } with hs₁
    have hok : okAt s 0 = s₁.answerOk := by rw [okAt_zero]; rfl
    have hd : Did [probeEvent (okAt s 0)] s (probe s₁).2 := by
      have h := (did_setWork s { s.work with pcnt := s.work.pcnt + 1 }).trans (did_probe s₁)
      simpa [hok] using h
    cases hr : s₁.answerOk with
    | true =>
      have he : probeFrom (n + 1) s = (true, (probe s₁).2) := by simp [probeFrom, probe, ← hs₁, hr]
      refine ⟨1, by omega, ?_⟩
      rw [he]
      refine ⟨by simpa [List.range_succ] using hd, by simp [probe, hs₁], by simp [probe, hs₁], by simp [probe, hs₁],
        by simp [hok, hr], by simp⟩
    | false =>
      have he : probeFrom (n + 1) s = probeFrom n (probe s₁).2 := by simp [probeFrom, probe, ← hs₁, hr]
      obtain ⟨k, hk, hdid, hw, hph, hdr, ht, hf⟩ := ih (probe s₁).2
      have hnext : ∀ j, okAt (probe s₁).2 j = okAt s (j + 1) := fun j => by
        rw [hd.answerOk, Nat.add_comm]; rfl
      simp only [hnext] at hdid ht hf
      refine ⟨k + 1, by omega, ?_⟩
      rw [he]
      refine ⟨by simpa [List.range_succ_eq_map, List.map_map, Function.comp_def] using hd.trans hdid, ?_,
        by simpa [probe, hs₁] using hph, by simpa [probe, hs₁] using hdr, ?_, ?_⟩
      · rw [hw]; simp [probe, hs₁]; omega
      · intro h
        obtain ⟨h0, h1, h2⟩ := ht h
        refine ⟨by omega, by rw [← h1]; congr 1; omega, fun j hj => ?_⟩
        cases j with
        | zero => rw [hok, hr]
        | succ j => exact h2 j (by omega)
      · intro h
        obtain ⟨h0, h1⟩ := hf h
        refine ⟨by omega, fun j hj => ?_⟩
        cases j with
        | zero => rw [hok, hr]
        | succ j => exact h1 j (by omega)

/-! ## The setter -/

/-- A procedure's end given as a status: `OK` is a return, any other an error. -/
def Proc.ofStatus (st : Status) (s : State) : Proc Unit := if st = .ok then .ret () s else .raise st s

/-- The working registers that a setter does not write are the same (R131). -/
def Work.sameBut (w w' : Work) : Prop :=
  w'.raw = w.raw ∧ w'.cfg = w.cfg ∧ w'.pcnt = w.pcnt ∧ w'.wcnt = w.wcnt

theorem setField_null (mask want : Word) (s : State) : setField false mask want s = .raise .argErr s := by
  simp [setField, readPair_null, Proc.andThen]

theorem setField_unbound (mask want : Word) {s : State} (hb : s.bound = false) :
    setField true mask want s = .fault .unbound := by
  simp [setField, readPair_unbound _ hb, Proc.andThen]

/-- Steps 3 and 4 on a bound block: the run of `verifyRun`; `cur` keeps what step 1 read, `new` and `tx` hold the value
written, and a read-back that is answered leaves `chk` and `rx`. -/
theorem writeAndVerify_bound (mask want : Word) {s : State} (hb : s.bound = true) :
    ∃ t, writeAndVerify true mask want s =
        Proc.ofStatus (verifyRun mask want (applyField s.work.cur mask want) s 0).1 t ∧
      Did (verifyRun mask want (applyField s.work.cur mask want) s 0).2 s t ∧ t.ph = s.ph ∧ t.draws = s.draws ∧
      s.work.sameBut t.work ∧ t.work.cur = s.work.cur ∧ t.work.new = applyField s.work.cur mask want ∧
      t.work.tx0 = hiByte t.work.new ∧ t.work.tx1 = loByte t.work.new ∧
      (okAt s 0 = true → okAt s 1 = true →
        t.work.chk = wordAt s 1 ∧ [t.work.rx0, t.work.rx1] = bytesAt s 1 2) := by
  set new := applyField s.work.cur mask want with hnew
  set s₁ := s.setWork { s.work with new := new } with hs₁
  obtain ⟨t, hw, hd, hph, hdr, hwk⟩ := writePair_bound regConfig new (s := s₁) (by simpa [hs₁] using hb)
  have hok : okAt s₁ 0 = okAt s 0 := rfl
  rw [hok] at hw hd
  have hd₁ : Did [configWrite new (okAt s 0)] s t := (did_setWork s { s.work with new := new }).trans hd
  obtain ⟨u, hr, he, hph', hdr', rx0, rx1, hwk', hrx, -⟩ := readPair_bound regConfig (s := t) (by rw [hd₁.bound, hb])
  rw [hd₁.answerOk, hd₁.wordAt] at hr
  rw [hd₁.readAt] at he
  rw [hd₁.answerOk, hd₁.bytesAt] at hrx
  have h1 : answeredOf [configWrite new (okAt s 0)] + 0 = 0 + 1 := by simp [configWrite, Entry.isAnswered]
  rw [h1] at hr he hrx
  have hv : writeAndVerify true mask want s = (writePair true regConfig new s₁).andThen fun _ s =>
      (readPair true regConfig s).andThen fun v s =>
        if fieldEq v mask want then .ret () (s.setWork { s.work with chk := v })
        else .raise .verifyErr (s.setWork { s.work with chk := v }) := rfl
  rw [hv, hw]
  cases h0 : okAt s 0 with
  | false =>
    refine ⟨t, by simp [Proc.andThen, verifyRun, h0, Proc.ofStatus], by simpa [verifyRun, h0] using hd₁,
      by simpa [hs₁] using hph, by simpa [hs₁] using hdr, by simp [hwk, hs₁, Work.sameBut],
      by simp [hwk, hs₁], by simp [hwk, hs₁], by simp [hwk, hs₁], by simp [hwk, hs₁], by simp⟩
  | true =>
    rw [h0] at hd₁
    have hd₂ := hd₁.trans he
    simp only [Proc.andThen, if_true, hr]
    cases h2 : okAt s (0 + 1) with
    | false =>
      rw [readAt_fail h2] at hd₂
      refine ⟨u, by simp [verifyRun, h0, h2, Proc.ofStatus], ?_, by simp [hph', hph, hs₁],
        by simp [hdr', hdr, hs₁], by simp [hwk', hwk, hs₁, Work.sameBut], by simp [hwk', hwk, hs₁],
        by simp [hwk', hwk, hs₁], by simp [hwk', hwk, hs₁], by simp [hwk', hwk, hs₁],
        by simp⟩
      simpa [verifyRun, h0, h2, configRead] using hd₂
    | true =>
      refine ⟨u.setWork { u.work with chk := wordAt s (0 + 1) }, ?_, ?_, by simp [hph', hph, hs₁],
        by simp [hdr', hdr, hs₁], by simp [hwk', hwk, hs₁, Work.sameBut], by simp [hwk', hwk, hs₁],
        by simp [hwk', hwk, hs₁], by simp [hwk', hwk, hs₁], by simp [hwk', hwk, hs₁], fun _ _ => ⟨by simp, ?_⟩⟩
      rotate_left 2
      · simpa [hwk'] using hrx h2
      · cases h3 : fieldEq (wordAt s (0 + 1)) mask want <;> simp [verifyRun, h0, h2, Proc.ofStatus, h3]
      · simpa [verifyRun, h0, h2, configRead] using hd₂.trans (did_setWork _ _)

theorem Did.verifyRun {es : List Entry} {s t : State} (h : Did es s t) (mask want new : Word) (k : Nat) :
    verifyRun mask want new t k = verifyRun mask want new s (answeredOf es + k) := by
  simp [Machine.verifyRun, h.answerOk, h.wordAt, h.readAt, Nat.add_assoc]

/-- What `SetField` leaves in the working registers it writes (R26, R130). -/
def SetterLeaves (mask want : Word) (s : State) (w : Work) : Prop :=
  (okAt s 0 = false → w = s.work) ∧ (okAt s 0 = true → w.cur = wordAt s 0) ∧
  (okAt s 0 = true → fieldEq (wordAt s 0) mask want = true →
    w.new = s.work.new ∧ w.chk = s.work.chk ∧ [w.rx0, w.rx1] = bytesAt s 0 2) ∧
  (okAt s 0 = true → fieldEq (wordAt s 0) mask want = false →
    w.new = applyField (wordAt s 0) mask want ∧ w.tx0 = hiByte w.new ∧ w.tx1 = loByte w.new ∧
    (okAt s 1 = true → okAt s 2 = true → w.chk = wordAt s 2 ∧ [w.rx0, w.rx1] = bytesAt s 2 2))

/-- What `SetField` does on a bound block: the run of `setterRun`; only `cur`, `new`, `chk`, `rx` and `tx` are written. -/
theorem setField_bound (mask want : Word) {s : State} (hb : s.bound = true) :
    ∃ t, setField true mask want s = Proc.ofStatus (setterRun mask want s).1 t ∧
      Did (setterRun mask want s).2 s t ∧ t.ph = s.ph ∧ t.draws = s.draws ∧ s.work.sameBut t.work ∧
      SetterLeaves mask want s t.work := by
  obtain ⟨t, hr, hd, hph, hdr, rx0, rx1, hwk, hrx, hno⟩ := readPair_bound regConfig hb
  have hf : setField true mask want s = (readPair true regConfig s).andThen fun v s =>
      if fieldEq v mask want then .ret () (s.setWork { s.work with cur := v })
      else writeAndVerify true mask want (s.setWork { s.work with cur := v }) := rfl
  rw [hf, hr]
  cases h0 : okAt s 0 with
  | false =>
    rw [readAt_fail h0] at hd
    exact ⟨t, by simp [Proc.andThen, setterRun, h0, Proc.ofStatus], by simpa [setterRun, h0, configRead] using hd,
      hph, hdr, by simp [hwk, Work.sameBut], fun _ => hno h0, by simp [h0], by simp [h0], by simp [h0]⟩
  | true =>
    set s₁ := t.setWork { t.work with cur := wordAt s 0 } with hs₁
    have hd₁ : Did [configRead (readAt s 0 2)] s s₁ := hd.trans (did_setWork _ _)
    simp only [Proc.andThen, if_true]
    cases hq : fieldEq (wordAt s 0) mask want with
    | true =>
      exact ⟨s₁, by simp [setterRun, h0, hq, Proc.ofStatus, hs₁], by simpa [setterRun, h0, hq] using hd₁,
        by simp [hs₁, hph], by simp [hs₁, hdr], by simp [hs₁, hwk, Work.sameBut],
        by simp [h0], by simp [hs₁], fun _ _ => ⟨by simp [hs₁, hwk], by simp [hs₁, hwk], by simpa [hs₁, hwk] using hrx h0⟩,
        by simp [hq]⟩
    | false =>
      obtain ⟨u, hv, he, hph', hdr', hwk', hcur, hnew, htx0, htx1, hchk⟩ :=
        writeAndVerify_bound mask want (s := s₁) (by rw [hd₁.bound, hb])
      have hcur₁ : s₁.work.cur = wordAt s 0 := by simp [hs₁]
      rw [hd₁.verifyRun, hcur₁] at hv he
      have h1 : answeredOf [configRead (readAt s 0 2)] + 0 = 1 := by simp [configRead, Entry.isAnswered]
      have h2 : ∀ k, answeredOf [configRead (readAt s 0 2)] + k = k + 1 := by
        intro k; simp [configRead, Entry.isAnswered, Nat.add_comm]
      rw [h1] at hv he
      simp only [hd₁.answerOk, hd₁.wordAt, hd₁.bytesAt, h2] at hchk
      rw [hcur₁] at hnew
      refine ⟨u, by simpa [setterRun, h0, hq] using hv, by simpa [setterRun, h0, hq] using hd₁.trans he,
        by simp [hph', hs₁, hph], by simp [hdr', hs₁, hdr], ?_, by simp [h0], fun _ => by rw [hcur, hcur₁],
        by simp [hq], fun _ _ => ⟨hnew, htx0, htx1, hchk⟩⟩
      simpa [Work.sameBut, hs₁, hwk] using hwk'

/-! ## The data-ready check -/

theorem convDone_null (s : State) : convDone false s = .ret false s := by simp [convDone, readPair_null]

theorem convDone_unbound {s : State} (hb : s.bound = false) : convDone true s = .fault .unbound := by
  simp [convDone, readPair_unbound _ hb]

theorem Did.readyAt {es : List Entry} {s t : State} (h : Did es s t) (k : Nat) :
    readyAt t k = readyAt s (answeredOf es + k) := by
  simp [Machine.readyAt, h.answerOk, h.wordAt]

/-- What `ConvDone` does on a bound block: one read of Config; only `rx` and `cfg` are written. -/
theorem convDone_bound {s : State} (hb : s.bound = true) :
    ∃ t, convDone true s = .ret (readyAt s 0) t ∧
      Did [configRead (readAt s 0 2)] s t ∧ t.ph = s.ph ∧ t.draws = s.draws ∧
      (∃ rx0 rx1 cfg, t.work = { s.work with rx0 := rx0, rx1 := rx1, cfg := cfg }) ∧
      (okAt s 0 = true → t.work.cfg = wordAt s 0 ∧ [t.work.rx0, t.work.rx1] = bytesAt s 0 2) := by
  obtain ⟨t, hr, hd, hph, hdr, rx0, rx1, hwk, hrx, -⟩ := readPair_bound regConfig hb
  rw [convDone, hr]
  cases h0 : okAt s 0 with
  | false => exact ⟨t, by simp [readyAt, h0], hd, hph, hdr, ⟨rx0, rx1, s.work.cfg, hwk⟩, by simp⟩
  | true =>
    exact ⟨t.setWork { t.work with cfg := wordAt s 0 }, by simp [readyAt, h0], hd.trans (did_setWork _ _), hph, hdr,
      ⟨rx0, rx1, wordAt s 0, by simp [hwk]⟩, fun _ => ⟨rfl, by simpa [hwk] using hrx h0⟩⟩

/-! ## The poll -/

theorem pollEvents_succ {s t : State} {e : Entry} (k : Nat)
    (h : ∀ j, readAt t j 2 = readAt s (j + 1) 2) (he : e = .sleep Config.pollInterval) (hk : 0 < k) :
    pollEvents s (k + 1) = configRead (readAt s 0 2) :: e :: pollEvents t k := by
  obtain ⟨k, rfl⟩ : ∃ n, k = n + 1 := ⟨k - 1, by omega⟩
  rw [pollEvents, List.range_succ_eq_map (n := k + 1), pollEvents, List.range_succ_eq_map (n := k)]
  simp [List.map_map, Function.comp_def, h, he]

/-- What the poll with `n + 1` trials left does on a bound block: `k` trials, at least one, all but the last not ready,
the last ready or the budget used up; only `rx`, `cfg` and `wcnt` are written. -/
theorem pollFrom_bound (n : Nat) {s : State} (hb : s.bound = true) :
    ∃ k t, pollFrom (n + 1) s = .ret () t ∧ 0 < k ∧ k ≤ n + 1 ∧
      Did (pollEvents s k) s t ∧ t.ph = s.ph ∧ t.draws = s.draws ∧
      (∃ rx0 rx1 cfg, t.work = { s.work with rx0 := rx0, rx1 := rx1, cfg := cfg, wcnt := s.work.wcnt + k }) ∧
      (∀ j < k - 1, readyAt s j = false) ∧ (readyAt s (k - 1) = true ∨ k = n + 1) := by
  induction n generalizing s with
  | zero =>
    obtain ⟨t, hc, hd, hph, hdr, ⟨rx0, rx1, cfg, hwk⟩, -⟩ :=
      convDone_bound (s := s.setWork { s.work with wcnt := s.work.wcnt + 1 }) (by simpa using hb)
    refine ⟨1, t, by simp [pollFrom, hc, Proc.andThen], by omega, by omega, ?_, hph, hdr,
      ⟨rx0, rx1, cfg, by simpa using hwk⟩, by simp, .inr rfl⟩
    simpa [pollEvents] using (did_setWork s { s.work with wcnt := s.work.wcnt + 1 }).trans hd
  | succ n ih =>
    set s₁ := s.setWork { s.work with wcnt := s.work.wcnt + 1 } with hs₁
    obtain ⟨t, hc, hd, hph, hdr, ⟨rx0, rx1, cfg, hwk⟩, -⟩ := convDone_bound (s := s₁) (by simpa [hs₁] using hb)
    have hread : readAt s₁ 0 2 = readAt s 0 2 := rfl
    have hready : readyAt s₁ 0 = readyAt s 0 := rfl
    rw [hread] at hd
    rw [hready] at hc
    have hd₁ : Did [configRead (readAt s 0 2)] s t := (did_setWork s { s.work with wcnt := s.work.wcnt + 1 }).trans hd
    cases h0 : readyAt s 0 with
    | true =>
      refine ⟨1, t, by simp [pollFrom, ← hs₁, hc, h0, Proc.andThen], by omega, by omega, ?_, hph, hdr,
        ⟨rx0, rx1, cfg, by simp [hwk, hs₁]⟩, by simp, .inl h0⟩
      simpa [pollEvents] using hd₁
    | false =>
      have hd₂ := hd₁.trans (did_sleep t)
      obtain ⟨k, u, hp, hk, hkn, he, hph', hdr', ⟨rx0', rx1', cfg', hwk'⟩, hall, hlast⟩ :=
        ih (s := sleep t) (by rw [hd₂.bound, hb])
      have h1 : ∀ j, answeredOf ([configRead (readAt s 0 2)] ++ [Entry.sleep Config.pollInterval]) + j = j + 1 := by
        intro j; simp [configRead, Entry.isAnswered, Nat.add_comm]
      have hread' : ∀ j, readAt (sleep t) j 2 = readAt s (j + 1) 2 := fun j => by rw [hd₂.readAt, h1]
      have hready' : ∀ j, readyAt (sleep t) j = readyAt s (j + 1) := fun j => by rw [hd₂.readyAt, h1]
      refine ⟨k + 1, u, ?_, by omega, by omega, ?_, hph'.trans hph, hdr'.trans hdr, ?_, ?_, ?_⟩
      · rw [pollFrom, ← hs₁, hc]; simp [Proc.andThen, h0, hp]
      · rw [pollEvents_succ k hread' rfl hk]; exact hd₂.trans he
      · refine ⟨rx0', rx1', cfg', ?_⟩
        have hsw : (sleep t).work = t.work := rfl
        rw [hwk', hsw, hwk]; simp [hs₁]; omega
      · intro j hj
        cases j with
        | zero => exact h0
        | succ j => rw [← hready']; exact hall j (by omega)
      · rcases hlast with h | h
        · left; rw [hready'] at h; rw [← h]; congr 1; omega
        · right; omega

/-! ## The sample read -/

/-- What the sample read does on a bound block: `raw` is the value of the answer, or a free value when it is `Fail`
(R165). -/
theorem readSample_bound {s : State} (hb : s.bound = true) :
    ∃ t, readSample s = .ret () t ∧
      Did [.phase .reading, resultRead (readAt s 0 2)] s t ∧ t.ph = .reading ∧
      t.work.pcnt = s.work.pcnt ∧ t.work.wcnt = s.work.wcnt ∧
      t.work.raw = (if okAt s 0 then wordAt s 0 else Config.any16 s.draws) ∧
      t.draws = s.draws + (if okAt s 0 then 0 else 1) := by
  obtain ⟨t, hr, hd, hph, hdr, rx0, rx1, hwk, -⟩ :=
    readPair_bound regResult (s := s.setPh .reading) (by simpa using hb)
  have hd₁ := (did_setPh s .reading).trans hd
  simp only [okAt_setPh, wordAt_setPh, readAt_setPh] at hr hd₁
  rcases Bool.eq_false_or_eq_true (okAt s 0) with h0 | h0
  · simp only [h0, if_true] at hr
    exact ⟨t.setWork { t.work with raw := wordAt s 0 }, by simp [readSample, hr],
      by simpa [resultRead] using hd₁.trans (did_setWork _ _), by simpa using hph,
      by simp [hwk], by simp [hwk], by simp [h0], by simp [h0, hdr]⟩
  · simp only [h0, Bool.false_eq_true, if_false] at hr
    exact ⟨t.tookDraw.setWork { t.work with raw := Config.any16 t.draws }, by simp [readSample, hr],
      by simpa [resultRead] using (hd₁.trans (did_tookDraw _)).trans (did_setWork _ _),
      by simpa using hph, by simp [hwk], by simp [hwk], by simp [h0, hdr], by simp [h0, hdr]⟩

/-! ## The acquisition -/

theorem dropOutcome_ofStatus (st : Status) (s : State) : (Proc.ofStatus st s).dropOutcome = .ret () s := by
  cases st <;> rfl

theorem Did.okAt_skip {es : List Entry} {s t : State} (h : Did es s t) (k : Nat) :
    okAt t k = okAt (s.skip (answeredOf es)) k := by
  simp [okAt, State.skip, State.answerOk, h.env, h.answered]

theorem Did.setterRun {es : List Entry} {s t : State} (h : Did es s t) (mask want : Word) :
    setterRun mask want t = setterRun mask want (s.skip (answeredOf es)) := by
  have hs : s.skip (answeredOf es) = { s with env := t.env, answered := t.answered } := by
    simp [State.skip, h.env, h.answered]
  rw [hs]; rfl

theorem Did.pollEvents {es : List Entry} {s t : State} (h : Did es s t) (k : Nat) :
    pollEvents t k = pollEvents (s.skip (answeredOf es)) k := by
  have hs : s.skip (answeredOf es) = { s with env := t.env, answered := t.answered } := by
    simp [State.skip, h.env, h.answered]
  rw [hs]; rfl

theorem Did.readyAt_skip {es : List Entry} {s t : State} (h : Did es s t) (k : Nat) :
    Machine.readyAt t k = Machine.readyAt (s.skip (answeredOf es)) k := by
  have hs : s.skip (answeredOf es) = { s with env := t.env, answered := t.answered } := by
    simp [State.skip, h.env, h.answered]
  rw [hs]; rfl

theorem answeredOf_pollEvents (s : State) (k : Nat) : answeredOf (pollEvents s k) = k := by
  have h : ∀ (es : List Entry) (e : Entry), e.isAnswered = false → answeredOf (es.intersperse e) = answeredOf es := by
    intro es e he
    induction es using List.twoStepInduction with
    | nil => rfl
    | singleton x => rfl
    | cons_cons x y es ih1 ih2 => simp [ih2, he]
  rw [Machine.pollEvents, h _ _ rfl, answeredOf, List.countP_map]
  simp [Function.comp_def, configRead, Entry.isAnswered]

/-- What the acquisition with a budget of `n + 1` trials does on a bound block: the two setters, `k` trials, one read of
Result, in this order and whatever the answers (R162 to R165, R171). -/
theorem acquire_bound (n : Nat) (cyc : BitVec 3) {s : State} (hb : s.bound = true) :
    ∃ k t, acquire (n + 1) cyc s = .ret () t ∧ 0 < k ∧ k ≤ n + 1 ∧ Did (acquireEvents cyc s k) s t ∧
      t.ph = .reading ∧ t.work.pcnt = s.work.pcnt ∧ t.work.wcnt = k ∧
      (∀ j < k - 1, readyAt (s.skip (settersUse cyc s)) j = false) ∧
      (readyAt (s.skip (settersUse cyc s)) (k - 1) = true ∨ k = n + 1) ∧
      t.work.raw = (if okAt s (settersUse cyc s + k) then wordAt s (settersUse cyc s + k)
        else Config.any16 s.draws) ∧
      t.draws = s.draws + (if okAt s (settersUse cyc s + k) then 0 else 1) := by
  obtain ⟨t₁, hs₁, hd₁, -, hdr₁, hw₁, -⟩ := setField_bound modeMask (modeBits .continuous)
    (s := s.setPh .configuringMode) (by simpa using hb)
  have e₁ := (did_setPh s .configuringMode).trans hd₁
  obtain ⟨t₂, hs₂, hd₂, -, hdr₂, hw₂, -⟩ := setField_bound cycMask (cycBits cyc)
    (s := t₁.setPh .configuringCycle) (by simp [e₁.bound, hb])
  have e₂ := (e₁.trans (did_setPh t₁ .configuringCycle)).trans hd₂
  have e₃ := (e₂.trans (did_setPh t₂ .polling)).trans (did_setWork _ { t₂.work with wcnt := 0 })
  set s₃ := (t₂.setPh .polling).setWork { t₂.work with wcnt := 0 } with hs₃
  obtain ⟨k, t₃, hp, hk, hkn, hd₃, -, hdr₃, ⟨rx0, rx1, cfg, hw₃⟩, hall, hlast⟩ :=
    pollFrom_bound n (s := s₃) (by rw [e₃.bound, hb])
  have e₄ := e₃.trans hd₃
  obtain ⟨t, hr, hd₄, hph, hpc, hwc, hraw, hdr₄⟩ := readSample_bound (s := t₃) (by rw [e₄.bound, hb])
  have e₅ := e₄.trans hd₄
  have r₁ : setterRun modeMask (modeBits .continuous) (s.setPh .configuringMode) =
      setterRun modeMask (modeBits .continuous) s := rfl
  have r₂ := (e₁.trans (did_setPh t₁ .configuringCycle)).setterRun cycMask (cycBits cyc)
  rw [r₁] at e₁ e₂ e₃ e₄ e₅ r₂ hs₁
  have n₁ : answeredOf (([.phase .configuringMode] ++ (setterRun modeMask (modeBits .continuous) s).2) ++
      [.phase .configuringCycle]) = answeredOf (setterRun modeMask (modeBits .continuous) s).2 := by
    simp [answeredOf_append, Entry.isAnswered]
  rw [n₁] at r₂
  rw [r₂] at e₂ e₃ e₄ e₅ hs₂
  set m := answeredOf (setterRun modeMask (modeBits .continuous) s).2 with hm
  have n₂ : ∀ l : List Entry, l = (setterRun cycMask (cycBits cyc) (s.skip m)).2 →
      answeredOf (((([.phase .configuringMode] ++ (setterRun modeMask (modeBits .continuous) s).2) ++
        [.phase .configuringCycle]) ++ l) ++ [.phase .polling] ++ []) = settersUse cyc s := by
    rintro l rfl
    simp [answeredOf_append, Entry.isAnswered, settersUse, ← hm]
  have hpe := e₃.pollEvents k
  have hre := e₃.readyAt_skip
  rw [n₂ _ rfl] at hpe
  simp only [n₂ _ rfl] at hre
  rw [hpe] at e₄ e₅
  have n₃ : answeredOf (((([.phase .configuringMode] ++ (setterRun modeMask (modeBits .continuous) s).2) ++
        [.phase .configuringCycle]) ++ (setterRun cycMask (cycBits cyc) (s.skip m)).2) ++ [.phase .polling] ++ [] ++
        pollEvents (s.skip (settersUse cyc s)) k) = settersUse cyc s + k := by
    rw [answeredOf_append, n₂ _ rfl, answeredOf_pollEvents]
  have hra := e₄.readAt 0 2
  have hok := e₄.answerOk 0
  have hwd := e₄.wordAt 0
  rw [n₃, Nat.add_zero] at hra hok hwd
  rw [hra] at e₅
  refine ⟨k, t, ?_, hk, hkn, ?_, hph, ?_, ?_, ?_, ?_, ?_, ?_⟩
  · simp [acquire, poll, hs₁, hs₂, dropOutcome_ofStatus, Proc.andThen, ← hs₃, hp, hr]
  · simpa [acquireEvents, ← hm] using e₅
  · rw [hpc, hw₃]; simpa [hs₃] using hw₂.2.2.1.trans (by simpa using hw₁.2.2.1)
  · rw [hwc, hw₃]; simp [hs₃]
  · simpa only [hre] using hall
  · simpa only [hre] using hlast
  · rw [hraw, hdr₃]
    simp [hok, hwd, hs₃, hdr₂, hdr₁]
  · rw [hdr₄, hdr₃]
    simp [hok, hs₃, hdr₂, hdr₁]

end Sys2Proof.Machine
end

