-- ==== Sys2Proof/Machine/RefSensor.lean ====
section
/-! DEFINITION. The reference sensor of 20_memory R68: the spec's own test fixture, not part of the block. It is the
deterministic oracle of the tests: it answers a command's events (`RefSensor.run`) or checks the answers in a log
(`RefSensor.replay`). No meaning uses it, and no statement has it as a premise (notes/assumptions/16.md). -/

namespace Sys2Proof.Machine

/-- The fixture's register map `R`: offset and value pairs, offsets strictly rising, no value 0 listed; an offset that is
not listed holds 0 (R68). -/
abbrev RegMap := List (Nat × Word)

/-- The canonical form of a register map. -/
def RegMap.wf : RegMap → Bool
  | [] => true
  | [(_, v)] => v != 0
  | (a, v) :: (b, w) :: rest => v != 0 && decide (a < b) && RegMap.wf ((b, w) :: rest)

/-- The value at an offset. -/
def RegMap.get : RegMap → Nat → Word
  | [], _ => 0
  | (a, v) :: rest, reg => if a = reg then v else RegMap.get rest reg

/-- Store a value at an offset, keeping the canonical form: storing 0 removes the entry. -/
def RegMap.set : RegMap → Nat → Word → RegMap
  | [], reg, w => if w = 0 then [] else [(reg, w)]
  | (a, v) :: rest, reg, w =>
    if reg < a then (if w = 0 then (a, v) :: rest else (reg, w) :: (a, v) :: rest)
    else if reg = a then (if w = 0 then rest else (a, w) :: rest)
    else (a, v) :: RegMap.set rest reg w

/-- A step of the fixture's surroundings that a vector states between two events (R68): another party or the sensor
itself sets a register, the sensor sets data-ready, the sensor appears or disappears. -/
inductive EnvStep where
  | setReg (reg : Byte) (v : Word)
  | setDataReady
  | setPresent (present : Bool)
deriving DecidableEq, Repr

/-- The fixture's state (R68), and what a vector states for one command: `failNext`, and the environment steps with the
number of the event each one comes before. `index` counts the command's `MemRead` and `MemWrite` events so far, `event` all
its transport events; both count from 1. -/
structure RefSensor where
  present : Bool
  readyAfter : Nat
  regs : RegMap
  failNext : List Nat
  steps : List (Nat × EnvStep)
  index : Nat
  event : Nat
deriving DecidableEq, Repr

/-- The fixture's Config register. -/
def RefSensor.config (r : RefSensor) : Word := RegMap.get r.regs regConfig.toNat

/-- `Probe()` at the fixture (R68). -/
def RefSensor.probe (r : RefSensor) : Bool × RefSensor :=
  if r.present && r.readyAfter == 0 then (true, r) else (false, { r with readyAfter := r.readyAfter - 1 })

/-- Whether the fixture fails the next `MemRead` or `MemWrite` of the command (R68: indexes count from 1). -/
def RefSensor.failsNow (r : RefSensor) : Bool := r.failNext.contains (r.index + 1)

/-- One more `MemRead` or `MemWrite` of the command. -/
def RefSensor.counted (r : RefSensor) : RefSensor := { r with index := r.index + 1 }

/-- `MemRead(reg, 2)` at the fixture (R68). -/
def RefSensor.read (r : RefSensor) (reg : Byte) : Option (List Byte) × RefSensor :=
  if r.failsNow then (none, r.counted)
  else
    let v := RegMap.get r.regs reg.toNat
    (some [hiByte v, loByte v], r.counted)

/-- What a write of `v` at `reg` leaves in the register map: bit 13 of Config keeps its value, the limits store what is
written, every other offset is unchanged (R68). -/
def RefSensor.store (r : RefSensor) (reg : Byte) (v : Word) : RegMap :=
  if reg = regConfig then RegMap.set r.regs regConfig.toNat ((v &&& 0xDFFF) ||| (r.config &&& 0x2000))
  else if reg = regHighLimit ∨ reg = regLowLimit then RegMap.set r.regs reg.toNat v
  else r.regs

/-- `MemWrite(reg, 2, b)` at the fixture (R68). -/
def RefSensor.write (r : RefSensor) (reg : Byte) (v : Word) : Bool × RefSensor :=
  if r.failsNow then (false, r.counted) else (true, { r.counted with regs := r.store reg v })

/-- What an environment step does to the fixture (R68). -/
def RefSensor.apply (r : RefSensor) : EnvStep → RefSensor
  | .setReg reg v => { r with regs := RegMap.set r.regs reg.toNat v }
  | .setDataReady => { r with regs := RegMap.set r.regs regConfig.toNat (r.config ||| drMask) }
  | .setPresent present => { r with present := present }

/-- The fixture when the command's next event reaches it: the environment steps stated before that event have happened. -/
def RefSensor.arrive (r : RefSensor) : RefSensor :=
  { (r.steps.filter fun p => p.1 == r.event + 1).foldl (fun r p => r.apply p.2) r with event := r.event + 1 }

/-- The end of a command: the counts start again, and what the vector stated for the command is over. -/
def RefSensor.endCommand (r : RefSensor) : RefSensor := { r with failNext := [], steps := [], index := 0, event := 0 }

/-- What the fixture answers to an event that has arrived, by the event's arguments; `none` where R68 defines no answer
(lengths other than 2) or the entry is no event that is answered. -/
def RefSensor.answer (r : RefSensor) : Entry → Option (Answer × RefSensor)
  | .probe _ _ _ => some (⟨r.probe.1, []⟩, r.probe.2)
  | .memRead _ reg n _ _ =>
    if n = 2 then some (⟨(r.read reg).1.isSome, (r.read reg).1.getD []⟩, (r.read reg).2) else none
  | .memWrite _ reg n bytes _ _ =>
    match bytes with
    | [b0, b1] =>
      if n = 2 then some (⟨(r.write reg (joinBytes b0 b1)).1, []⟩, (r.write reg (joinBytes b0 b1)).2) else none
    | _ => none
  | .sleep _ => none
  | .phase _ => none
  | .response _ => none
  | .reset => none

/-- The answer that stands in a log entry. -/
def Entry.answer : Entry → Option Answer
  | .probe _ _ ready => some ⟨ready, []⟩
  | .memRead _ _ _ _ answer => some ⟨answer.isSome, answer.getD []⟩
  | .memWrite _ _ _ _ _ ok => some ⟨ok, []⟩
  | .sleep _ => none
  | .phase _ => none
  | .response _ => none
  | .reset => none

/-- An answered event of a log against the fixture: the fixture's state after it, `none` when the fixture answers
otherwise. -/
def RefSensor.accept (r : RefSensor) (e : Entry) : Option RefSensor :=
  match r.answer e with
  | some (a, r') => if e.answer = some a then some r' else none
  | none => none

/-- One logged entry against the fixture. A response or a reset ends the command. -/
def RefSensor.follow (r : RefSensor) : Entry → Option RefSensor
  | .phase _ => some r
  | .sleep _ => some r.arrive
  | .reset => some r.endCommand
  | .response _ => some r.endCommand
  | .probe dev timeout ready => r.arrive.accept (.probe dev timeout ready)
  | .memRead dev reg n wait answer => r.arrive.accept (.memRead dev reg n wait answer)
  | .memWrite dev reg n bytes wait ok => r.arrive.accept (.memWrite dev reg n bytes wait ok)

/-- A run's log against the fixture. -/
def RefSensor.replay (r : RefSensor) : List Entry → Option RefSensor
  | [] => some r
  | e :: es =>
    match r.follow e with
    | some r' => r'.replay es
    | none => none

/-! ## The fixture as an oracle -/

/-- The entries of a log before its answered event number `k` (from 0), and that event. -/
def splitAtAnswered : Nat → List Entry → List Entry × Option Entry
  | _, [] => ([], none)
  | k, e :: es =>
    if e.isAnswered then
      match k with
      | 0 => ([], some e)
      | k' + 1 => (e :: (splitAtAnswered k' es).1, (splitAtAnswered k' es).2)
    else (e :: (splitAtAnswered k es).1, (splitAtAnswered k es).2)

/-- The fixture's next answer, when a run that was given the answers so far logged `es`; `none` when the run asks for no
more, or for one R68 does not define. Which event comes next depends on the answers so far only. -/
def RefSensor.nextAnswer (r : RefSensor) (given : Nat) (es : List Entry) : Option Answer :=
  match splitAtAnswered given es with
  | (before, some e) => (r.replay before).bind fun r' => (r'.arrive.answer e).map Prod.fst
  | (_, none) => none

/-- The answers the fixture gives a command. `fuel` bounds how many answers a run of the command takes whatever they are; a
trial run is filled up with `Fail`. -/
def RefSensor.script (r : RefSensor) (command : State → Host.Outcome State Fault Refusal) (s : State) :
    Nat → List Answer → List Answer
  | 0, given => given
  | fuel + 1, given =>
    match command { s with env := given ++ List.replicate (fuel + 1) ⟨false, []⟩ } with
    | .next t =>
      match r.nextAnswer given.length (added s t) with
      | some a => r.script command s fuel (given ++ [a])
      | none => given
    | .fault _ => given
    | .refused _ => given

/-- A command against the fixture; `fuel` as in `RefSensor.script`. -/
def RefSensor.run (r : RefSensor) (fuel : Nat) (command : State → Host.Outcome State Fault Refusal) (s : State) :
    Host.Outcome State Fault Refusal :=
  command { s with env := r.script command s fuel [] }

end Sys2Proof.Machine
end

