-- ==== Sys2Proof/Laws/RefSensor.lean ====
section
/-! SUPPORT. The fixture's register map keeps its canonical form and reads back what was stored (20_memory R68). -/

namespace Sys2Proof.Machine

/-- The offsets of a map all lie above `n`, rise, and carry no 0. -/
def RegMap.above (n : Nat) : RegMap → Prop
  | [] => True
  | (a, v) :: rest => n < a ∧ v ≠ 0#16 ∧ RegMap.above a rest

theorem RegMap.above.mono {n k : Nat} (h : k ≤ n) : ∀ {r : RegMap}, RegMap.above n r → RegMap.above k r
  | [], _ => trivial
  | (_, _) :: _, ⟨ha, hv, hr⟩ => ⟨by omega, hv, hr⟩

/-- The canonical form, as offsets above a bound. -/
theorem RegMap.wf_cons (a : Nat) (v : Word) (rest : RegMap) :
    RegMap.wf ((a, v) :: rest) = true ↔ v ≠ 0#16 ∧ RegMap.above a rest := by
  induction rest generalizing a v with
  | nil => simp [RegMap.wf, RegMap.above]
  | cons p rest ih =>
    obtain ⟨b, w⟩ := p
    simp [RegMap.wf, RegMap.above, ih, and_assoc]

theorem RegMap.above.wf {n : Nat} {r : RegMap} (h : RegMap.above n r) : RegMap.wf r = true := by
  cases r with
  | nil => rfl
  | cons p rest => exact (RegMap.wf_cons p.1 p.2 rest).2 ⟨h.2.1, h.2.2⟩

theorem RegMap.set_above {n reg : Nat} (hn : n < reg) (w : Word) :
    ∀ {r : RegMap}, RegMap.above n r → RegMap.above n (RegMap.set r reg w)
  | [], _ => by
    by_cases hw : w = 0#16 <;> simp [RegMap.set, RegMap.above, hw, hn]
  | (a, v) :: rest, ⟨ha, hv, hr⟩ => by
    by_cases hlt : reg < a
    · by_cases hw : w = 0#16 <;> simp [RegMap.set, RegMap.above, hlt, hw, ha, hn, hv, hr]
    · by_cases heq : reg = a
      · by_cases hw : w = 0#16
        · simpa [RegMap.set, heq, hw] using hr.mono (Nat.le_of_lt ha)
        · simp [RegMap.set, RegMap.above, heq, hw, ha, hr]
      · simp only [RegMap.set, hlt, heq, if_false, RegMap.above]
        exact ⟨ha, hv, RegMap.set_above (by omega) w hr⟩

/-- Storing keeps the canonical form. -/
theorem RegMap.set_wf (r : RegMap) (reg : Nat) (w : Word) (h : RegMap.wf r = true) :
    RegMap.wf (RegMap.set r reg w) = true := by
  cases r with
  | nil => by_cases hw : w = 0#16 <;> simp [RegMap.set, RegMap.wf, hw]
  | cons p rest =>
    obtain ⟨a, v⟩ := p
    obtain ⟨hv, hr⟩ := (RegMap.wf_cons a v rest).1 h
    by_cases hlt : reg < a
    · by_cases hw : w = 0#16
      · simpa [RegMap.set, hlt, hw] using h
      · simp only [BitVec.ofNat_eq_ofNat, RegMap.set, hlt, hw, if_true, if_false]
        exact (RegMap.wf_cons _ _ _).2 ⟨hw, hlt, hv, hr⟩
    · by_cases heq : reg = a
      · by_cases hw : w = 0#16
        · simpa [RegMap.set, heq, hw] using hr.wf
        · simp only [BitVec.ofNat_eq_ofNat, RegMap.set, heq, hw, Nat.lt_irrefl, if_true, if_false]
          exact (RegMap.wf_cons _ _ _).2 ⟨hw, hr⟩
      · simp only [RegMap.set, hlt, heq, if_false]
        exact (RegMap.wf_cons _ _ _).2 ⟨hv, RegMap.set_above (by omega) w hr⟩

theorem RegMap.get_of_above {n reg : Nat} (hn : reg ≤ n) : ∀ {r : RegMap}, RegMap.above n r → RegMap.get r reg = 0
  | [], _ => rfl
  | (a, _) :: _, ⟨ha, _, hr⟩ => by
    have hne : a ≠ reg := by omega
    simp [RegMap.get, hne, RegMap.get_of_above (Nat.le_trans hn (Nat.le_of_lt ha)) hr]

/-- What is stored at an offset is read back there, and every other offset reads as before. -/
theorem RegMap.get_set (reg k : Nat) (w : Word) :
    ∀ {r : RegMap}, RegMap.wf r = true → RegMap.get (RegMap.set r reg w) k = if k = reg then w else RegMap.get r k
  | [], _ => by
    by_cases hw : w = 0#16 <;> by_cases hk : reg = k <;> simp [RegMap.set, RegMap.get, hw, hk, eq_comm (a := k)]
  | (a, v) :: rest, h => by
    obtain ⟨hv, hr⟩ := (RegMap.wf_cons a v rest).1 h
    by_cases hlt : reg < a
    · have hz : RegMap.get ((a, v) :: rest) reg = 0 := by
        simp [RegMap.get, show a ≠ reg by omega, RegMap.get_of_above (Nat.le_of_lt hlt) hr]
      by_cases hw : w = 0#16
      · by_cases hk : k = reg
        · subst hk; simpa [RegMap.set, hlt, hw] using hz
        · simp [RegMap.set, hlt, hw, hk]
      · by_cases hk : k = reg
        · simp [RegMap.set, RegMap.get, hlt, hw, hk]
        · simp [RegMap.set, RegMap.get, hlt, hw, hk, Ne.symm hk]
    · by_cases heq : reg = a
      · subst heq
        by_cases hw : w = 0#16
        · by_cases hk : k = reg
          · subst hk; simp [RegMap.set, hw, RegMap.get_of_above (Nat.le_refl _) hr]
          · simp [RegMap.set, RegMap.get, hw, hk, Ne.symm hk]
        · by_cases hk : k = reg
          · simp [RegMap.set, RegMap.get, hw, hk]
          · simp [RegMap.set, RegMap.get, hw, hk, Ne.symm hk]
      · simp only [RegMap.set, hlt, heq, if_false, RegMap.get]
        by_cases hk : a = k
        · simp [hk, show k ≠ reg by omega]
        · simp [hk, RegMap.get_set reg k w hr.wf]

/-- A write keeps the canonical form of the fixture's registers. -/
theorem RefSensor.store_wf (r : RefSensor) (reg : Byte) (v : Word) (h : RegMap.wf r.regs = true) :
    RegMap.wf (r.store reg v) = true := by
  unfold RefSensor.store
  split
  · exact RegMap.set_wf _ _ _ h
  · split
    · exact RegMap.set_wf _ _ _ h
    · exact h

/-- An environment step keeps the canonical form of the fixture's registers. -/
theorem RefSensor.apply_wf (r : RefSensor) (e : EnvStep) (h : RegMap.wf r.regs = true) :
    RegMap.wf (r.apply e).regs = true := by
  cases e with
  | setReg reg v => exact RegMap.set_wf _ _ _ h
  | setDataReady => exact RegMap.set_wf _ _ _ h
  | setPresent present => exact h

/-- Bit 13 of Config keeps its value when the block writes Config; every other bit is as written. -/
theorem RefSensor.store_config (r : RefSensor) (v : Word) (h : RegMap.wf r.regs = true) :
    RegMap.get (r.store regConfig v) regConfig.toNat = (v &&& 0xDFFF) ||| (r.config &&& 0x2000) := by
  rw [RefSensor.store, if_pos rfl, RegMap.get_set _ _ _ h, if_pos rfl]

end Sys2Proof.Machine
end

