-- ==== Sys2Proof/Tests/Slice0.lean ====
section
/-! SUPPORT. Tests and witnesses. Expected values are those of 95_test_vectors (the vector's name stands in each comment)
or words written out from 30_encoding R80 to R88. A `witness_` theorem shows a state and operands that meet the hypotheses
of the obligation it is named after. -/

open Sys2Proof Sys2Proof.Machine

/-! ## Helpers -/

/-- The environment answers a 2-byte read with `v`. -/
def gives (v : Word) : Answer := ⟨true, [hiByte v, loByte v]⟩

/-- The environment answers a write, or a probe, well. -/
def yes : Answer := ⟨true, []⟩

/-- The environment answers `Fail` or `NotReady`. -/
def no : Answer := ⟨false, []⟩

/-- "Block bound" of 95_test_vectors, with the environment's coming answers. -/
def boundWith (env : List Answer) : State := { State.reset with avail := true, bound := true, env := env }

/-- The block after reset, with the environment's coming answers. -/
def resetWith (env : List Answer) : State := { State.reset with env := env }

/-- The status a command ends with and the events it issues; nothing for a stop. -/
def seen (s : State) : Host.Outcome State Fault Refusal → Option (Status × List Entry)
  | .next t => some (t.rsp.st, eventsOf (added s t))
  | .fault _ => none
  | .refused _ => none

/-- The flag a command ends with. -/
def flagOf : Host.Outcome State Fault Refusal → Option Bool
  | .next t => some t.rsp.flag
  | .fault _ => none
  | .refused _ => none

/-- The two forms of the temperature a command ends with. -/
def tempOf : Host.Outcome State Fault Refusal → Option (BitVec 32 × Word)
  | .next t => some (t.rsp.tempF, t.rsp.tempQ)
  | .fault _ => none
  | .refused _ => none

/-- `avail` and `bound` after a command. -/
def bindingOf : Host.Outcome State Fault Refusal → Option (Bool × Bool)
  | .next t => some (t.avail, t.bound)
  | .fault _ => none
  | .refused _ => none

/-- The fixture with a value of Config, and the environment steps stated for a command. -/
def fixture (config : Word) (steps : List (Nat × EnvStep) := []) : RefSensor :=
  { present := true, readyAfter := 0, regs := RegMap.set [] 1 config, failNext := [], steps := steps, index := 0,
    event := 0 }

/-! ## Well-formedness: each check refuses an ill-formed term -/

theorem test_wellFormed_accepts : (Instr.writeRegs true true 0x02 0x02 [0x0C, 0x80]).wellFormed = true := by decide

/-- Too few bytes for `len` (R88). -/
theorem test_wellFormed_refuses_short : (Instr.writeRegs true true 0x02 0x02 [0x0C]).wellFormed = false := by decide

/-- Bytes beside a command that does not read them (R88, R124). -/
theorem test_wellFormed_refuses_unread : (Instr.writeRegs true false 0x02 0x02 [0x0C, 0x80]).wellFormed = false := by
  decide

/-! ## Decoding: words written out bit by bit, `OP HV BV TV 0`, `REG`, `LEN`, `ARG` (R80 to R85) -/

theorem test_decode_init : decode ⟨0b0000_1_0_1_0_00000000_00000000_00000000, []⟩ = .ok (.init true true) := by rfl

theorem test_decode_isPresent : decode ⟨0b0001_1_0_0_0_00000000_00000000_00000000, []⟩ = .ok (.isPresent true) := by rfl

theorem test_decode_readRegs :
    decode ⟨0b0010_1_1_0_0_00001111_11111111_00000000, []⟩ = .ok (.readRegs true true 0x0F 0xFF) := by rfl

theorem test_decode_writeRegs :
    decode ⟨0b0011_1_1_0_0_00000010_00000010_00000000, [0x0C, 0x80]⟩ =
      .ok (.writeRegs true true 0x02 0x02 [0x0C, 0x80]) := by rfl

/-- R88, notes/assumptions/8.md: a byte string of the wrong length is rejected, one that is not read is dropped. -/
theorem test_decode_writeRegs_length :
    decode ⟨0b0011_1_1_0_0_00000010_00000010_00000000, [0x0C]⟩ = .error .wdataLength ∧
    decode ⟨0b0011_1_0_0_0_00000010_00000010_00000000, [0x0C]⟩ = .ok (.writeRegs true false 0x02 0x02 []) := by
  exact ⟨rfl, rfl⟩

theorem test_decode_setMode :
    decode ⟨0b0100_1_0_0_0_00000000_00000000_00000010, []⟩ = .ok (.setMode true .continuousAlt) := by rfl

theorem test_decode_setCycle : decode ⟨0b0101_1_0_0_0_00000000_00000000_00000110, []⟩ = .ok (.setCycle true 6) := by rfl

theorem test_decode_isConvDone : decode ⟨0b0110_0_0_0_0_00000000_00000000_00000000, []⟩ = .ok (.isConvDone false) := by
  rfl

theorem test_decode_getTemp : decode ⟨0b0111_1_0_0_0_00000000_00000000_00000000, []⟩ = .ok (.getTemp true) := by rfl

theorem test_decode_reserved : decode ⟨0b1111_1_0_0_0_00000000_00000000_00000000, []⟩ = .ok .reserved := by rfl

/-- The opcode table's numbering: the word in bits 31 to 0, the bytes of WDATA above it (notes/assumptions/12.md). -/
theorem test_decodeTableWord :
    decodeTableWord 48 0x800C3C020200 = some (.writeRegs true true 0x02 0x02 [0x0C, 0x80]) ∧
    decodeTableWord 32 0x30000000 = some (.writeRegs false false 0x00 0x00 []) := by
  exact ⟨rfl, rfl⟩

/-- A word placed at the port of the block after reset is run by the very next step (T60-3). -/
theorem test_withFetchWord :
    ∃ t, step (State.reset.withFetchWord 32 0x78000000) = .next t ∧ t.rsp.st = .unavailable ∧ t.rsp.tempQ = 0x8080 :=
  ⟨_, rfl, rfl, rfl⟩

/-! ## INIT, IS_PRESENT -/

/-- T40-2, T40-3 (`PROBE_TRIALS = 3`). -/
theorem test_init_probes :
    seen (resetWith [no, no, yes]) (initWith 3 true true (resetWith [no, no, yes])) =
      some (.ok, [probeEvent false, probeEvent false, probeEvent true]) ∧
    seen (resetWith [no, no, no]) (initWith 3 true true (resetWith [no, no, no])) =
      some (.unavailable, [probeEvent false, probeEvent false, probeEvent false]) := by
  exact ⟨rfl, rfl⟩

/-- T40-1, T40-12 (overwritten from 1), T40-8 (unchanged). -/
theorem test_init_binding :
    bindingOf (initWith 3 true true (resetWith [yes])) = some (true, true) ∧
    bindingOf (initWith 3 true true (boundWith [no, no, no])) = some (false, true) ∧
    bindingOf (initWith 3 true false (boundWith [])) = some (true, true) := by
  exact ⟨rfl, rfl, rfl⟩

/-- S8-8 (one attempt and no more; stop at the first `Ready`). -/
theorem test_isPresent_probes :
    seen (boundWith [no, yes]) (isPresentWith 1 true (boundWith [no, yes])) = some (.ok, [probeEvent false]) ∧
    seen (boundWith [no, yes, no]) (isPresentWith 3 true (boundWith [no, yes, no])) =
      some (.ok, [probeEvent false, probeEvent true]) := by
  exact ⟨rfl, rfl⟩

/-- S3-1, T40-9. -/
theorem test_isPresent_null : flagOf (exec (.isPresent false) State.reset) = some false ∧
    exec (.isPresent true) State.reset = .fault .unbound := by
  exact ⟨rfl, rfl⟩

/-! ## READ_REGS, WRITE_REGS, reserved -/

/-- T41-1, T41-21. -/
theorem test_readRegs : ∃ t u,
    exec (.readRegs true true 0x01 0x02) (boundWith [gives 0x0220]) = .next t ∧ t.rsp.rdata = [0x02, 0x20] ∧
    exec (.readRegs true true 0x00 0x01) (boundWith [⟨true, [0x0C]⟩]) = .next u ∧ u.rsp.rdata = [0x0C] :=
  ⟨_, _, rfl, rfl, rfl, rfl⟩

/-- T41-5 (a length of -128), T41-19 (the argument check comes first), T41-9. -/
theorem test_readRegs_errors :
    seen (boundWith [yes]) (exec (.readRegs true true 0x01 0x80) (boundWith [yes])) = some (.argErr, []) ∧
    seen State.reset (exec (.readRegs true true 0x01 0x00) State.reset) = some (.argErr, []) ∧
    seen (boundWith [no]) (exec (.readRegs true true 0x01 0x02) (boundWith [no])) =
      some (.xportErr, [configRead none]) := by
  exact ⟨rfl, rfl, rfl⟩

/-- T41-12: all 16 bits go out unmasked, and the fixture keeps bit 13. -/
theorem test_writeRegs : ∃ t,
    exec (.writeRegs true true 0x01 0x02 [0xFF, 0xFF]) (boundWith [yes]) = .next t ∧ t.rsp.st = .ok ∧
    ((fixture 0x0220).replay (added (boundWith [yes]) t)).map RefSensor.config = some 0xDFFF :=
  ⟨_, rfl, rfl, rfl⟩

/-- T41-15. -/
theorem test_writeRegs_fails :
    seen (boundWith [no]) (exec (.writeRegs true true 0x03 0x02 [0xAA, 0x55]) (boundWith [no])) =
      some (.xportErr, [.memWrite Config.devAddr 0x03 2 [0xAA, 0x55] Config.xferWait false]) := by
  rfl

/-- T60-2. -/
theorem test_reserved : seen State.reset (exec .reserved State.reset) = some (.argErr, []) := by rfl

/-! ## SET_MODE, SET_CYCLE, IS_CONV_DONE -/

/-- T42-1, T42-4. -/
theorem test_setMode :
    seen (boundWith [gives 0x0220, yes, gives 0x0E20])
        (exec (.setMode true .oneShot) (boundWith [gives 0x0220, yes, gives 0x0E20])) =
      some (.ok, [configRead (some [0x02, 0x20]), configWrite 0x0E20 true, configRead (some [0x0E, 0x20])]) ∧
    seen (boundWith [gives 0x0400, yes, gives 0x0C00])
        (exec (.setMode true .continuousAlt) (boundWith [gives 0x0400, yes, gives 0x0C00])) =
      some (.verifyErr, [configRead (some [0x04, 0x00]), configWrite 0x0C00 true, configRead (some [0x0C, 0x00])]) := by
  exact ⟨rfl, rfl⟩

/-- T42-13, T42-14. -/
theorem test_setMode_fails :
    seen (boundWith [gives 0, no]) (exec (.setMode true .shutdown) (boundWith [gives 0, no])) =
      some (.xportErr, [configRead (some [0, 0]), configWrite 0x0400 false]) ∧
    seen (boundWith [gives 0, yes, no]) (exec (.setMode true .shutdown) (boundWith [gives 0, yes, no])) =
      some (.xportErr, [configRead (some [0, 0]), configWrite 0x0400 true, configRead none]) := by
  exact ⟨rfl, rfl⟩

/-- T42-6 (bit 13 and the other bits as read). -/
theorem test_setCycle :
    seen (boundWith [gives 0xF27F, yes, gives 0xF3FF])
        (exec (.setCycle true 7) (boundWith [gives 0xF27F, yes, gives 0xF3FF])) =
      some (.ok, [configRead (some [0xF2, 0x7F]), configWrite 0xF3FF true, configRead (some [0xF3, 0xFF])]) := by
  rfl

/-- S8-2, row 0 (short-circuit). -/
theorem test_setCycle_short :
    seen (boundWith [gives 0xDC7F]) (exec (.setCycle true 0) (boundWith [gives 0xDC7F])) =
      some (.ok, [configRead (some [0xDC, 0x7F])]) := by
  rfl

/-- S8-6. -/
theorem test_isConvDone :
    flagOf (exec (.isConvDone true) (boundWith [gives 0x2000])) = some true ∧
    flagOf (exec (.isConvDone true) (boundWith [gives 0xDFFF])) = some false ∧
    flagOf (exec (.isConvDone true) (boundWith [no])) = some false := by
  exact ⟨rfl, rfl, rfl⟩

/-! ## GET_TEMP (`POLL_TRIALS = 3`) -/

/-- T44-2: the poll is exhausted and the stale sample returned with `OK`. -/
theorem test_getTemp_exhausted :
    let s := boundWith [gives 0, gives 0, gives 0, gives 0, gives 0, gives 0xFF00]
    seen s (getTempWith 3 0 true s) = some (.ok,
      [configRead (some [0, 0]), configRead (some [0, 0]), configRead (some [0, 0]), .sleep Config.pollInterval,
       configRead (some [0, 0]), .sleep Config.pollInterval, configRead (some [0, 0]), resultRead (some [0xFF, 0])]) ∧
    tempOf (getTempWith 3 0 true s) = some (0xC0000000, 0xFF00) := by
  exact ⟨rfl, rfl⟩

/-- T44-12 (`CYC_FORCED = 5`): the verification error is dropped. -/
theorem test_getTemp_drops_errors :
    let s := boundWith [gives 0x2100, gives 0x2100, yes, gives 0x2380, gives 0x2380, gives 0x0001]
    seen s (getTempWith 3 5 true s) = some (.ok,
      [configRead (some [0x21, 0]), configRead (some [0x21, 0]), configWrite 0x2380 true, configRead (some [0x23, 0x80]),
       configRead (some [0x23, 0x80]), resultRead (some [0, 1])]) ∧
    tempOf (getTempWith 3 5 true s) = some (0x3C000000, 0x0001) := by
  exact ⟨rfl, rfl⟩

/-! ## The reference sensor as an oracle (R68) -/

/-- T42-19: the sensor did not keep the write (an environment step before event 3). -/
theorem test_fixture_setMode : seen (boundWith []) ((fixture 0 [(3, .setReg 1 0)]).run 3
      (exec (.setMode true .oneShot)) (boundWith [])) =
    some (.verifyErr, [configRead (some [0, 0]), configWrite 0x0C00 true, configRead (some [0, 0])]) := by
  rfl

/-- T44-3: the sensor sets data-ready before event 4. -/
theorem test_fixture_getTemp :
    seen (boundWith []) ({ fixture 0 [(4, .setDataReady)] with regs := [(0, 0x0C80)] }.run 8
      (getTempWith 3 0 true) (boundWith [])) = some (.ok,
      [configRead (some [0, 0]), configRead (some [0, 0]), configRead (some [0, 0]), .sleep Config.pollInterval,
       configRead (some [0x20, 0]), resultRead (some [0x0C, 0x80])]) := by
  rfl

/-- T42-13 and T40-2: a write that fails, a sensor that appears at the third probe. -/
theorem test_fixture_fails :
    seen (boundWith []) ({ fixture 0 with failNext := [2] }.run 3 (exec (.setMode true .shutdown)) (boundWith [])) =
      some (.xportErr, [configRead (some [0, 0]), configWrite 0x0400 false]) ∧
    seen State.reset ({ fixture 0 with readyAfter := 2 }.run 3 (initWith 3 true true) State.reset) =
      some (.ok, [probeEvent false, probeEvent false, probeEvent true]) := by
  exact ⟨rfl, rfl⟩

/-! ## Reset -/

/-- T70-3: a reset after the write was answered and before the read-back. -/
theorem test_reset_during_setMode : ∃ t,
    step { boundWith [gives 0, yes, gives 0x0400] with host := [.commandThenReset ⟨0x48000001, []⟩ 2] } = .next t ∧
    t.avail = false ∧ t.bound = false ∧ t.ph = .idle ∧ t.env = [gives 0x0400] ∧
    t.log = [.phase .busy, configRead (some [0, 0]), configWrite 0x0400 true, .reset] :=
  ⟨_, rfl, rfl, rfl, rfl, rfl, rfl⟩

/-- R211: a reset before the first event of SET_MODE on the block after reset, which would fault (T42-21). -/
theorem test_reset_before_unbound : ∃ t,
    step { State.reset with host := [.commandThenReset ⟨0x48000001, []⟩ 0] } = .next t ∧
    t.ph = .idle ∧ t.log = [.phase .busy, .reset] :=
  ⟨_, rfl, rfl, rfl⟩

/-! ## Witnesses: encoding -/

theorem witness_DecodeEncodeRoundTrip :
    (Instr.writeRegs true true 0x02 0x7F (List.replicate 127 0xFF)).wellFormed = true ∧
    (Instr.writeRegs true true 0x02 0x80 []).wellFormed = true := by
  constructor
  · rw [Instr.wellFormed, List.length_replicate]; rfl
  · rfl

theorem witness_DecodeRejectsOnlyWrongWdata :
    decode ⟨0x3C020200, [0x0C, 0x80]⟩ = .ok (.writeRegs true true 0x02 0x02 [0x0C, 0x80]) ∧
    decode ⟨0x3C020100, []⟩ = .error .wdataLength ∧ decode ⟨0x3C020000, [1]⟩ = .ok (.writeRegs true true 2 0 []) := by
  exact ⟨rfl, rfl, rfl⟩

/-- T30, ignored bits. -/
theorem witness_IgnoredBitsChangeNothing :
    (0x7FFFFFFF : CmdWord) &&& usedBits 0x7FFFFFFF = 0x78000000 &&& usedBits 0x78000000 ∧
    (0x480000FD : CmdWord) &&& usedBits 0x480000FD = 0x48000001 &&& usedBits 0x48000001 ∧
    opField 0x480000FD ≠ 3 := by
  decide

theorem witness_OpcodeRowsPartitionTheWords : decode ⟨0x9C010200, []⟩ = .ok .reserved ∧
    decode ⟨0x7FFFFFFF, []⟩ = .ok (.getTemp true) := by
  exact ⟨rfl, rfl⟩

/-! ## Witnesses: reset, the port, the invariant -/

theorem witness_ResetLeavesTheBlockWaiting :
    ({ boundWith [yes] with ph := .polling, host := [.reset, .reset] } : State).host = .reset :: [.reset] := by rfl

theorem witness_StepRunsTheOfferedCommand :
    State.reset.ph = .idle ∧ ({ State.reset with host := [.command ⟨0x78000000, []⟩] } : State).ph = .idle ∧
    decode ⟨0x78000000, []⟩ = .ok (.getTemp true) ∧ decode ⟨0x3C020200, [0x0C]⟩ = .error .wdataLength ∧
    State.reset.host = [] := by
  exact ⟨rfl, rfl, rfl, rfl, rfl⟩

theorem witness_BusyPortAcceptsNothing :
    ∃ s : State, s.host = [.command ⟨0x78000000, []⟩] ∧ s.ph ≠ .idle ∧ ∀ rest, s.host ≠ .reset :: rest :=
  ⟨{ State.reset with ph := .reading, host := [.command ⟨0x78000000, []⟩] }, rfl, by decide, by simp⟩

/-- Cuts before the first event, after the second, and before the response; a command that would fault; a rejected word. -/
theorem witness_ResetCutsTheCommandShort :
    (∀ k ∈ [0, 2, 9], ∃ (s t : State), s.ph = .idle ∧ s.host = .commandThenReset ⟨0x48000001, []⟩ k :: [] ∧
      decode ⟨0x48000001, []⟩ = .ok (.setMode true .shutdown) ∧
      exec (.setMode true .shutdown) (s.setHost []) = .next t) ∧
    exec (.setMode true .shutdown) State.reset = .fault .unbound ∧
    decode ⟨0x3C020200, [0x0C]⟩ = .error .wdataLength := by
  refine ⟨fun k _ => ?_, rfl, rfl⟩
  obtain ⟨t, ht⟩ : ∃ t, exec (.setMode true .shutdown) (boundWith [gives 0, yes, gives 0x0400]) = .next t := ⟨_, rfl⟩
  exact ⟨{ boundWith [gives 0, yes, gives 0x0400] with host := [.commandThenReset ⟨0x48000001, []⟩ k] }, t,
    rfl, rfl, rfl, ht⟩

theorem witness_StepKeepsTheInvariant :
    ∃ s t : State, s.Inv ∧ s.avail = true ∧ step s = .next t ∧ t.rsp.flag = true :=
  ⟨{ boundWith [yes] with host := [.command ⟨0x18000000, []⟩] }, _,
    ⟨fun _ => rfl, rfl, Nat.zero_le _, Nat.zero_le _⟩, rfl, rfl, rfl⟩

theorem witness_OnlyInitAndResetWriteAvailAndBound :
    ∃ s t u v : State, step { s with host := [.command ⟨0x0A000000, []⟩] } = .next t ∧ t.bound ≠ s.bound ∧
      step { t with host := [.reset] } = .next u ∧ u.avail ≠ t.avail ∧
      step { t with host := [.commandThenReset ⟨0x70000000, []⟩ 0] } = .next v ∧ v.avail ≠ t.avail :=
  ⟨resetWith [yes], _, _, _, rfl, by decide, rfl, by decide, rfl, by decide⟩

/-! ## Witnesses: every command -/

theorem witness_CommandsFaultExactlyWhenUnbound :
    (boundWith []).Inv ∧ isGetTemp (.getTemp true) = true ∧
    faultsUnbound (.getTemp true) { State.reset with avail := true } = true ∧
    faultsUnbound (.readRegs true true 0x01 0x02) State.reset = true ∧
    faultsUnbound (.readRegs true true 0x01 0x00) State.reset = false := by
  exact ⟨⟨fun _ => rfl, rfl, Nat.zero_le _, Nat.zero_le _⟩, rfl, rfl, rfl, rfl⟩

theorem witness_EveryCommandEndsWithOneResponse :
    faultsUnbound (.init true true) State.reset = false ∧ faultsUnbound (.getTemp true) (boundWith []) = false := by
  exact ⟨rfl, rfl⟩

/-- T44-8: both setters fail, the first trial is ready. One run that meets the hypothesis of every statement about a
GET_TEMP that goes on, whatever `POLL_TRIALS` and `CYC_FORCED` are. -/
theorem witness_getTemp_run : ∃ t,
    exec (.getTemp true) (boundWith [no, no, gives 0x2000, gives 0x7FFF]) = .next t ∧ t.rsp.tempF = 0x437FFE00 ∧
    added (boundWith [no, no, gives 0x2000, gives 0x7FFF]) t =
      [.phase .configuringMode, configRead none, .phase .configuringCycle, configRead none, .phase .polling,
       configRead (some [0x20, 0]), .phase .reading, resultRead (some [0x7F, 0xFF]), .phase .converted,
       .response t.rsp, .phase .idle] :=
  ⟨_, rfl, rfl, rfl⟩

theorem witness_CommandsPassThroughTheirPhases :
    ∃ t, exec (.getTemp true) (boundWith [no, no, gives 0x2000, gives 0x7FFF]) = .next t ∧
      phasesOf (added (boundWith [no, no, gives 0x2000, gives 0x7FFF]) t) =
        [.configuringMode, .configuringCycle, .polling, .reading, .converted, .idle] :=
  ⟨_, rfl, rfl⟩

/-- The first and the last answered event of a setter that writes. -/
theorem witness_AnswersAreTakenInOrder :
    ∃ t, exec (.setMode true .shutdown) (boundWith [gives 0, yes, gives 0x0400]) = .next t ∧
      ((added (boundWith [gives 0, yes, gives 0x0400]) t).filter Entry.isAnswered)[0]? =
        some (configRead (some [0, 0])) ∧
      ((added (boundWith [gives 0, yes, gives 0x0400]) t).filter Entry.isAnswered)[2]? =
        some (configRead (some [4, 0])) :=
  ⟨_, rfl, rfl, rfl⟩

theorem witness_EveryEventCarriesTheDeviceAddress :
    ∃ t, exec (.init true true) (resetWith [yes]) = .next t ∧ probeEvent true ∈ added (resetWith [yes]) t ∧
      (probeEvent true).isAnswered = true :=
  ⟨_, rfl, by exact List.mem_cons_of_mem _ (List.mem_cons_self ..), rfl⟩

theorem witness_OwnAccessesAreTwoBytes :
    isRegisterAccess (.setMode true .shutdown) = false ∧
    ∃ t, exec (.setMode true .shutdown) (boundWith [gives 0, no]) = .next t ∧
      configWrite 0x0400 false ∈ added (boundWith [gives 0, no]) t :=
  ⟨rfl, _, rfl, by exact List.mem_cons_of_mem _ (List.mem_cons_of_mem _ (List.mem_cons_self ..))⟩

theorem witness_StatusesStayInTheTable :
    ∃ t, exec (.isPresent false) State.reset = .next t ∧ t.rsp.st = .ok := ⟨_, rfl, rfl⟩

/-- The three ways to a bad argument of READ_REGS, and INIT's. -/
theorem witness_ArgumentErrorsIssueNoEvent : ∃ t u v w,
    exec (.readRegs false true 1 2) State.reset = .next t ∧ t.rsp.st = .argErr ∧
    exec (.readRegs true false 1 2) State.reset = .next u ∧ u.rsp.st = .argErr ∧
    exec (.readRegs true true 1 0) State.reset = .next v ∧ v.rsp.st = .argErr ∧
    exec (.init true false) State.reset = .next w ∧ w.rsp.st = .argErr :=
  ⟨_, _, _, _, rfl, rfl, rfl, rfl, rfl, rfl, rfl, rfl⟩

/-- T42-12, T42-14, T41-9. -/
theorem witness_TransportErrorsEndTheCommand : ∃ t u v,
    exec (.setMode true .shutdown) (boundWith [no]) = .next t ∧ t.rsp.st = .xportErr ∧
    exec (.setMode true .shutdown) (boundWith [gives 0, yes, no]) = .next u ∧ u.rsp.st = .xportErr ∧
    exec (.readRegs true true 1 2) (boundWith [no]) = .next v ∧ v.rsp.st = .xportErr :=
  ⟨_, _, _, rfl, rfl, rfl, rfl, rfl, rfl⟩

/-- T42-19. -/
theorem witness_VerificationErrorsFollowThreeEvents :
    ∃ t, exec (.setMode true .oneShot) (boundWith [gives 0, yes, gives 0]) = .next t ∧ t.rsp.st = .verifyErr :=
  ⟨_, rfl, rfl⟩

theorem witness_AvailMattersOnlyToGetTemp :
    isGetTemp (.setCycle true 5) = false ∧ isInit (.setCycle true 5) = false ∧ (false && true) = false := by decide

/-! ## Witnesses: INIT, IS_PRESENT -/

theorem okAt_replicate_no (n : Nat) (rest : List Answer) (s : State) (h : s.env = List.replicate n no ++ rest) :
    (∀ j < n, okAt s j = false) ∧ (rest.head? = some yes → okAt s n = true) := by
  constructor
  · intro j hj
    obtain ⟨m, rfl⟩ : ∃ m, n = j + (m + 1) := ⟨n - j - 1, by omega⟩
    simp [okAt, State.skip, State.answerOk, h, List.replicate_add, List.replicate_succ, no]
  · intro hr
    cases rest with
    | nil => simp at hr
    | cons a rest => simp at hr; simp [okAt, State.skip, State.answerOk, h, hr, yes]

/-- `Ready` at the first attempt, `Ready` at the last one, and never. -/
theorem witness_InitBindsProbesAndRecords :
    (0 < Config.probeTrials ∧ okAt (resetWith [yes]) 0 = true ∧ ∀ j < 0, okAt (resetWith [yes]) j = false) ∧
    (Config.extraProbeTrials < Config.probeTrials ∧
      okAt (resetWith (List.replicate Config.extraProbeTrials no ++ [yes])) Config.extraProbeTrials = true ∧
      ∀ j < Config.extraProbeTrials,
        okAt (resetWith (List.replicate Config.extraProbeTrials no ++ [yes])) j = false) ∧
    (∀ j < Config.probeTrials, okAt (resetWith (List.replicate Config.probeTrials no ++ [])) j = false) :=
  ⟨⟨Nat.succ_pos _, rfl, by simp⟩,
    ⟨Nat.lt_succ_self _, (okAt_replicate_no _ [yes] _ rfl).2 rfl, (okAt_replicate_no _ [yes] _ rfl).1⟩,
    (okAt_replicate_no _ [] _ rfl).1⟩

theorem witness_IsPresentAnswersTheProbeLoop :
    State.reset.bound = false ∧ (boundWith [yes]).bound = true ∧ okAt (boundWith [yes]) 0 = true ∧
    okAt (boundWith (List.replicate Config.extraProbeTrials no ++ [yes])) Config.extraProbeTrials = true ∧
    (∀ j < Config.extraProbeTrials,
      okAt (boundWith (List.replicate Config.extraProbeTrials no ++ [yes])) j = false) ∧
    (∀ j < Config.probeTrials, okAt (boundWith (List.replicate Config.probeTrials no ++ [])) j = false) :=
  ⟨rfl, rfl, rfl, (okAt_replicate_no _ [yes] _ rfl).2 rfl, (okAt_replicate_no _ [yes] _ rfl).1,
    (okAt_replicate_no _ [] _ rfl).1⟩

theorem witness_ProbeCommandsFrame : ∃ t u,
    exec (.init true true) (resetWith [yes]) = .next t ∧ exec (.isPresent true) (boundWith [yes]) = .next u ∧
    isInit (.isPresent true) = false :=
  ⟨_, _, rfl, rfl, rfl⟩

/-! ## Witnesses: the other commands -/

/-- Each clause of READ_REGS: a null handle, a null buffer, lengths 0 and -128, not bound, lengths 1 and 127 with both
answers. -/
theorem witness_ReadRegsOutcome :
    lenInt 0x00 ≤ 0 ∧ lenInt 0x80 ≤ 0 ∧ ¬ lenInt 0x01 ≤ 0 ∧ ¬ lenInt 0x7F ≤ 0 ∧
    State.reset.bound = false ∧ (boundWith [yes]).bound = true ∧
    okAt (boundWith [yes]) 0 = true ∧ okAt (boundWith [no]) 0 = false := by
  refine ⟨?_, ?_, ?_, ?_, rfl, rfl, rfl, rfl⟩ <;> decide

theorem witness_WriteRegsOutcome : ∃ t u,
    exec (.writeRegs true true 0x02 0x01 [7]) (boundWith [yes]) = .next t ∧ t.rsp.st = .ok ∧
    exec (.writeRegs true true 0x02 0xFF []) (boundWith [yes]) = .next u ∧ u.rsp.st = .argErr ∧
    exec (.writeRegs true true 0x02 0x01 [7]) State.reset = .fault .unbound :=
  ⟨_, _, rfl, rfl, rfl, rfl, rfl⟩

theorem witness_RegisterCommandsFrame : ∃ t u,
    exec (.readRegs true true 0x01 0x02) (boundWith [gives 0x0220]) = .next t ∧
    exec (.writeRegs true true 0x02 0x02 [0x0C, 0x80]) (boundWith [yes]) = .next u :=
  ⟨_, _, rfl, rfl⟩

/-- Each clause of the setters: a null handle, not bound, bound. -/
theorem witness_SetModeOutcome : ∃ t u,
    exec (.setMode false .oneShot) State.reset = .next t ∧ t.rsp.st = .argErr ∧
    exec (.setMode true .oneShot) State.reset = .fault .unbound ∧
    exec (.setMode true .oneShot) (boundWith [gives 0x0C00]) = .next u ∧ u.rsp.st = .ok :=
  ⟨_, _, rfl, rfl, rfl, rfl, rfl⟩

theorem witness_SetCycleOutcome : ∃ t u,
    exec (.setCycle false 7) State.reset = .next t ∧ t.rsp.st = .argErr ∧
    exec (.setCycle true 7) State.reset = .fault .unbound ∧
    exec (.setCycle true 7) (boundWith [gives 0x0380]) = .next u ∧ u.rsp.st = .ok :=
  ⟨_, _, rfl, rfl, rfl, rfl, rfl⟩

/-- The short-circuit, the failed first read, and a run through all three events. -/
theorem witness_SettersLeaveTheirWorkingValues : ∃ t u v,
    setterField (.setCycle true 5) = some (0x0380, 0x0280) ∧ argumentBad (.setCycle true 5) = false ∧
    exec (.setCycle true 5) (boundWith [gives 0x0280]) = .next t ∧
    fieldEq (wordAt (boundWith [gives 0x0280]) 0) 0x0380 0x0280 = true ∧
    exec (.setCycle true 5) (boundWith [no]) = .next u ∧ okAt (boundWith [no]) 0 = false ∧
    exec (.setCycle true 5) (boundWith [gives 0x0220, yes, gives 0x02A0]) = .next v ∧ v.work.new = 0x02A0 ∧
    okAt (boundWith [gives 0x0220, yes, gives 0x02A0]) 2 = true :=
  ⟨_, _, _, rfl, rfl, rfl, rfl, rfl, rfl, rfl, rfl, rfl⟩

theorem witness_SettersFrame :
    setterField (.setCycle true 5) ≠ none ∧ ∃ t, exec (.setCycle true 5) (boundWith [gives 0, no]) = .next t :=
  ⟨by decide, _, rfl⟩

theorem witness_SettersKeepTheOtherBits :
    setterField (.setCycle true 5) = some (0x0380, 0x0280) ∧
    ∃ t, exec (.setCycle true 5) (boundWith [gives 0xF07F, no]) = .next t ∧
      configWrite 0xF2FF false ∈ added (boundWith [gives 0xF07F, no]) t ∧ (configWrite 0xF2FF false).isWrite = true :=
  ⟨by decide, _, rfl, by exact List.mem_cons_of_mem _ (List.mem_cons_of_mem _ (List.mem_cons_self ..)), rfl⟩

/-- The short-circuit of T42-9, `OK` of T42-1, `VERIFY_ERR` of T42-4. -/
theorem witness_OrOnlySetterOutcomes :
    setterField (.setMode true .continuousAlt) = some (0x0C00, 0x0800) ∧
    argumentBad (.setMode true .continuousAlt) = false ∧ okAt (boundWith [gives 0x0800]) 0 = true ∧
    wordAt (boundWith [gives 0x0800]) 0 &&& 0x0C00 = 0x0800 ∧
    setterField (.setMode true .oneShot) = some (0x0C00, 0x0C00) ∧
    (0x0E20 : Word) &&& 0x0C00 = 0x0220 &&& 0x0C00 ||| 0x0C00 ∧
    [0, 1, 2].all (okAt (boundWith [gives 0x0220, yes, gives 0x0E20])) = true ∧
    (0x0C00 : Word) &&& 0x0C00 = 0x0400 &&& 0x0C00 ||| 0x0800 ∧
    [0, 1, 2].all (okAt (boundWith [gives 0x0400, yes, gives 0x0C00])) = true := by
  exact ⟨rfl, rfl, rfl, rfl, rfl, rfl, rfl, rfl, rfl⟩

/-- S8-1 with `m = 1`: one write, then none. T42-10 and T42-11: the second call writes again. -/
theorem witness_SecondSetterCallShortCircuits : ∃ t v : State,
    exec (.setMode true .shutdown) (boundWith [gives 0, yes, gives 0x0400, gives 0x0400]) = .next t ∧ t.rsp.st = .ok ∧
    okAt t 0 = true ∧ wordAt t 0 &&& 0x0C00 = 0x0400 ∧
    exec (.setMode true .continuousAlt) (boundWith [gives 0x0400, yes, gives 0x0C00, gives 0x0C00]) = .next v ∧
    okAt v 0 = true ∧ wordAt v 0 &&& 0x0C00 ≠ 0x0800 :=
  ⟨_, _, rfl, rfl, rfl, rfl, rfl, rfl, by decide⟩

/-- Each clause of IS_CONV_DONE. -/
theorem witness_IsConvDoneOutcome :
    flagOf (exec (.isConvDone false) State.reset) = some false ∧
    exec (.isConvDone true) State.reset = .fault .unbound ∧ okAt (boundWith [gives 0x2220]) 0 = true ∧
    (wordAt (boundWith [gives 0x2220]) 0).getLsbD 13 = true ∧ okAt (boundWith [no]) 0 = false := by
  exact ⟨rfl, rfl, rfl, rfl, rfl⟩

theorem witness_IsConvDoneFrame :
    okAt (boundWith [gives 0x2220]) 0 = true ∧
    ∃ t, exec (.isConvDone true) (boundWith [gives 0x2220]) = .next t ∧ t.work.cfg = 0x2220 :=
  ⟨rfl, _, rfl, rfl⟩

/-- A null handle on an available block, and an unavailable handle. -/
theorem witness_GetTempAnswersTheSentinel : ∃ t u,
    exec (.getTemp false) (boundWith []) = .next t ∧ t.rsp.st = .unavailable ∧
    exec (.getTemp true) State.reset = .next u ∧ u.rsp.st = .unavailable ∧ State.reset.avail = false :=
  ⟨_, _, rfl, rfl, rfl, rfl, rfl⟩

theorem witness_GetTempAcquiresAndConverts : (boundWith []).avail = true ∧ (boundWith []).bound = true := by
  exact ⟨rfl, rfl⟩

theorem witness_GetTempEventCounts :
    (boundWith [no, no, gives 0x2000, no]).avail = true ∧
    ∃ t, exec (.getTemp true) (boundWith [no, no, gives 0x2000, no]) = .next t ∧ t.rsp.tempQ = Config.any16 0 :=
  ⟨rfl, _, rfl, rfl⟩

/-- A GET_TEMP that goes on and one that answers the sentinel. -/
theorem witness_GetTempFrame : ∃ t u,
    exec (.getTemp true) (boundWith [no, no, gives 0x2000, gives 0x7FFF]) = .next t ∧
    exec (.getTemp false) (boundWith []) = .next u ∧ (false && (boundWith []).avail) = false :=
  ⟨_, _, rfl, rfl, rfl⟩

theorem witness_GetTempMatchesTheCommandsByHand :
    (boundWith [gives 0x2000]).avail = true ∧ (boundWith [gives 0x2000]).bound = true := by
  exact ⟨rfl, rfl⟩
end

/-! The accesses of a command (20_memory R51, R58). `exec_logs` says once which entries a command can log; O17 and O18
are read off it. -/

namespace Sys2Proof.Machine

/-! ## The entries that a command can log -/

/-- The forms of the entries that `i` can log: what needs no answer, a probe, the block's own 2-byte accesses, and for
READ_REGS and WRITE_REGS the access that the host chose. -/
inductive Entry.LoggedBy (i : Instr) : Entry → Prop where
  | unanswered {e : Entry} (h : e.isAnswered = false) : Entry.LoggedBy i e
  | probe (ready : Bool) : Entry.LoggedBy i (probeEvent ready)
  | ownConfigRead (answer : Option (List Byte)) : Entry.LoggedBy i (configRead answer)
  | ownConfigWrite (v : Word) (ok : Bool) : Entry.LoggedBy i (configWrite v ok)
  | ownResultRead (answer : Option (List Byte)) : Entry.LoggedBy i (resultRead answer)
  | chosenRead (hi : isRegisterAccess i = true) (reg : Byte) (n : Nat) (answer : Option (List Byte)) :
      Entry.LoggedBy i (.memRead Config.devAddr reg n Config.xferWait answer)
  | chosenWrite (hi : isRegisterAccess i = true) (reg : Byte) (n : Nat) (b : List Byte) (ok : Bool) :
      Entry.LoggedBy i (.memWrite Config.devAddr reg n b Config.xferWait ok)

theorem Entry.LoggedBy.device_eq {i : Instr} {e : Entry} (h : e.LoggedBy i) (ha : e.isAnswered = true) :
    e.device = some Config.devAddr := by
  cases h with
  | unanswered hn => simp [hn] at ha
  | probe | ownConfigRead | ownConfigWrite | ownResultRead | chosenRead | chosenWrite => rfl

/-- Only a read or a write can be no own access, and both are answered. -/
theorem Entry.isOwnAccess_of_unanswered {e : Entry} (h : e.isAnswered = false) : e.isOwnAccess = true := by
  cases e with
  | memRead | memWrite => cases h
  | phase | probe | sleep | response | reset => rfl

theorem Entry.LoggedBy.isOwnAccess {i : Instr} {e : Entry} (h : e.LoggedBy i) (hi : isRegisterAccess i = false) :
    e.isOwnAccess = true := by
  cases h with
  | unanswered hn => exact Entry.isOwnAccess_of_unanswered hn
  | probe | ownConfigRead | ownConfigWrite | ownResultRead => rfl
  | chosenRead hc | chosenWrite hc => simp [hi] at hc

/-! ## The runs given by the laws log such entries only -/

theorem loggedBy_verifyRun (i : Instr) (mask want new : Word) (s : State) (k : Nat) :
    ∀ e ∈ (verifyRun mask want new s k).2, e.LoggedBy i := by
  unfold verifyRun
  split
  · simpa using .ownConfigWrite new false
  · split
    · simpa using ⟨.ownConfigWrite new true, .ownConfigRead none⟩
    · simpa using ⟨.ownConfigWrite new true, .ownConfigRead _⟩

theorem loggedBy_setterRun (i : Instr) (mask want : Word) (s : State) :
    ∀ e ∈ (setterRun mask want s).2, e.LoggedBy i := by
  unfold setterRun
  split
  · simpa using .ownConfigRead none
  · split
    · simpa using .ownConfigRead _
    · simpa using ⟨.ownConfigRead _, loggedBy_verifyRun i mask want _ s 1⟩

theorem forall_mem_intersperse {α : Type} {p : α → Prop} {sep : α} (hsep : p sep) {xs : List α}
    (h : ∀ x ∈ xs, p x) : ∀ x ∈ xs.intersperse sep, p x := by
  induction xs using List.twoStepInduction with
  | nil | singleton => exact h
  | cons_cons x y xs _ ih =>
    obtain ⟨hx, hxs⟩ := List.forall_mem_cons.1 h
    rw [List.intersperse_cons_cons, List.forall_mem_cons, List.forall_mem_cons]
    exact ⟨hx, hsep, ih y hxs⟩

theorem loggedBy_pollEvents (i : Instr) (s : State) (k : Nat) : ∀ e ∈ pollEvents s k, e.LoggedBy i := by
  refine forall_mem_intersperse (.unanswered rfl) (List.forall_mem_map.2 fun j _ => ?_)
  exact .ownConfigRead (readAt s j 2)

theorem loggedBy_acquireEvents (i : Instr) (cyc : BitVec 3) (s : State) (k : Nat) :
    ∀ e ∈ acquireEvents cyc s k, e.LoggedBy i := by
  have phase (p : Phase) : Entry.LoggedBy i (.phase p) := .unanswered rfl
  simp only [acquireEvents, List.cons_append, List.forall_mem_cons, List.forall_mem_append]
  exact ⟨phase _, loggedBy_setterRun i _ _ _, phase _, loggedBy_setterRun i _ _ _, phase _,
    loggedBy_pollEvents i _ _, phase _, .ownResultRead _, by simp⟩

/-! ## Growing the log by such entries -/

/-- From `s` to `t` the log grew, by entries that `i` can log. -/
def Logs (i : Instr) (s t : State) : Prop := ∃ es, t.log = s.log ++ es ∧ ∀ e ∈ es, e.LoggedBy i

theorem Did.logs {i : Instr} {es : List Entry} {s t : State} (h : Did es s t) (hes : ∀ e ∈ es, e.LoggedBy i) :
    Logs i s t := ⟨es, h.log, hes⟩

theorem Logs.refl (i : Instr) (s : State) : Logs i s s := (Did.refl s).logs (by simp)

theorem Logs.trans {i : Instr} {s t u : State} (h : Logs i s t) (k : Logs i t u) : Logs i s u := by
  obtain ⟨es, hes, hi⟩ := h
  obtain ⟨fs, hfs, hj⟩ := k
  exact ⟨es ++ fs, by rw [hfs, hes, List.append_assoc], List.forall_mem_append.2 ⟨hi, hj⟩⟩

theorem Logs.of_mem_added {i : Instr} {s t : State} (h : Logs i s t) {e : Entry} (he : e ∈ added s t) :
    e.LoggedBy i := by
  obtain ⟨es, hes, hi⟩ := h
  exact hi e (by simpa [added, hes] using he)

theorem logs_setPh (i : Instr) (s : State) (p : Phase) : Logs i s (s.setPh p) :=
  (did_setPh s p).logs (by simpa using .unanswered rfl)

theorem logs_setBound (i : Instr) (s : State) (v : Bool) : Logs i s (s.setBound v) := ⟨[], by simp, by simp⟩

theorem logs_setAvail (i : Instr) (s : State) (v : Bool) : Logs i s (s.setAvail v) := ⟨[], by simp, by simp⟩

theorem logs_finish (i : Instr) (st : Status) (flag : Option Bool) (temp : Option (BitVec 32 × Word))
    (rdata : Option (List Byte)) (s : State) : Logs i s (finish st flag temp rdata s) :=
  ⟨_, finish_log .., by simpa using ⟨.unanswered rfl, .unanswered rfl⟩⟩

theorem logs_probeLoop (i : Instr) {n : Nat} {s u : State} {found : Bool} (hp : probeLoop n s = (found, u)) :
    Logs i s u := by
  obtain ⟨k, -, hd, -⟩ := probeFrom_did n (s.setWork { s.work with pcnt := 0 })
  obtain rfl : (probeLoop n s).2 = u := by rw [hp]
  refine ((did_setWork s _).trans hd).logs ?_
  simpa using fun j _ => .probe _

/-! ## Procedures -/

/-- However the procedure, begun in `s`, ends, but by a fault, it has logged only what `i` can log. -/
def Proc.Logs {α : Type} (i : Instr) (s : State) : Proc α → Prop
  | .ret _ t => Machine.Logs i s t
  | .raise _ t => Machine.Logs i s t
  | .fault _ => True

theorem Proc.Logs.ofStatus {i : Instr} {s t : State} (h : Machine.Logs i s t) (st : Status) :
    (Proc.ofStatus st t).Logs i s := by
  unfold Proc.ofStatus
  split <;> exact h

/-- A command that runs a procedure from `u` and ends with a response logs what the procedure does, and the end. -/
theorem Proc.Logs.toOutcome {α : Type} {i : Instr} {s u t : State} {p : Proc α} (hp : p.Logs i u)
    (hu : Machine.Logs i s u) {onRet : α → State → State} (hr : ∀ v u, Machine.Logs i u (onRet v u))
    (h : p.toOutcome onRet = .next t) : Machine.Logs i s t := by
  cases p with
  | ret v w => cases h; exact (hu.trans hp).trans (hr v w)
  | raise e w => cases h; exact (hu.trans hp).trans (logs_finish ..)
  | fault f => cases h

theorem regRead_logs {i : Instr} (hi : isRegisterAccess i = true) (hv bv : Bool) (reg : Byte) (len : Int) (s : State) :
    (regRead hv bv reg len s).Logs i s := by
  cases ha : argsBad hv bv len with
  | true => rw [regRead_bad ha]; exact .refl i s
  | false =>
    cases hb : s.bound with
    | false => rw [regRead_unbound ha reg hb]; trivial
    | true =>
      rw [regRead_bound ha reg hb]
      have hl : Machine.Logs i s (memRead reg len.toNat s).2 :=
        (did_memRead reg _ s).logs (by simpa using .chosenRead hi ..)
      split <;> exact hl

theorem regWrite_logs {i : Instr} (hi : isRegisterAccess i = true) (hv bv : Bool) (reg : Byte) (len : Int)
    (b : List Byte) (s : State) : (regWrite hv bv reg len b s).Logs i s := by
  cases ha : argsBad hv bv len with
  | true => rw [regWrite_bad ha]; exact .refl i s
  | false =>
    cases hb : s.bound with
    | false => rw [regWrite_unbound ha reg b hb]; trivial
    | true =>
      rw [regWrite_bound ha reg b hb]
      have hl : Machine.Logs i s (memWrite reg len.toNat b s).2 :=
        (did_memWrite reg _ b s).logs (by simpa using .chosenWrite hi ..)
      split <;> exact hl

theorem setField_logs (i : Instr) (hv : Bool) (mask want : Word) (s : State) :
    (setField hv mask want s).Logs i s := by
  cases hv with
  | false => rw [setField_null]; exact .refl i s
  | true =>
    cases hb : s.bound with
    | false => rw [setField_unbound mask want hb]; trivial
    | true =>
      obtain ⟨t, ht, hd, -⟩ := setField_bound mask want hb
      rw [ht]
      exact Proc.Logs.ofStatus (hd.logs (loggedBy_setterRun i mask want s)) _

theorem convDone_logs (i : Instr) (hv : Bool) (s : State) : (convDone hv s).Logs i s := by
  cases hv with
  | false => rw [convDone_null]; exact .refl i s
  | true =>
    cases hb : s.bound with
    | false => rw [convDone_unbound hb]; trivial
    | true =>
      obtain ⟨t, ht, hd, -⟩ := convDone_bound hb
      rw [ht]
      exact hd.logs (by simpa using .ownConfigRead _)

theorem acquire_unbound (trials : Nat) (cyc : BitVec 3) {s : State} (hb : s.bound = false) :
    acquire trials cyc s = .fault .unbound := by
  simp [acquire, setField_unbound (s := s.setPh .configuringMode) _ _ hb, Proc.dropOutcome, Proc.andThen]

theorem acquire_logs (i : Instr) (n : Nat) (cyc : BitVec 3) (s : State) : (acquire (n + 1) cyc s).Logs i s := by
  cases hb : s.bound with
  | false => rw [acquire_unbound _ cyc hb]; trivial
  | true =>
    obtain ⟨k, t, ht, -, -, hd, -⟩ := acquire_bound n cyc hb
    rw [ht]
    exact hd.logs (loggedBy_acquireEvents i cyc s k)

/-! ## Commands -/

theorem initWith_bad {hv tv : Bool} (ha : (!hv || !tv) = true) (n : Nat) (s : State) :
    initWith n hv tv s = .next (raiseError .argErr (s.setPh .busy)) := by
  simp only [initWith, if_pos ha]

theorem initWith_good {hv tv : Bool} (ha : (!hv || !tv) = false) {n : Nat} {s u : State} {found : Bool}
    (hp : probeLoop n ((s.setPh .busy).setBound true) = (found, u)) :
    initWith n hv tv s =
      .next (finish (if found then .ok else .unavailable) (some found) none none (u.setAvail found)) := by
  simp [initWith, ha, hp]

theorem initWith_logs {i : Instr} {n : Nat} {hv tv : Bool} {s t : State} (h : initWith n hv tv s = .next t) :
    Logs i s t := by
  have busy : Logs i s (s.setPh .busy) := logs_setPh i s .busy
  cases ha : !hv || !tv with
  | true => rw [initWith_bad ha] at h; cases h; exact busy.trans (logs_finish ..)
  | false =>
    rcases hp : probeLoop n ((s.setPh .busy).setBound true) with ⟨found, u⟩
    rw [initWith_good ha hp] at h; cases h
    have probed : Logs i s u := (busy.trans (logs_setBound ..)).trans (logs_probeLoop i hp)
    exact (probed.trans (logs_setAvail ..)).trans (logs_finish ..)

theorem isPresentWith_null (n : Nat) (s : State) :
    isPresentWith n false s = .next (finish .ok (some false) none none (s.setPh .busy)) := rfl

theorem isPresentWith_unbound (n : Nat) {s : State} (hb : s.bound = false) :
    isPresentWith n true s = .fault .unbound := by
  simp [isPresentWith, hb]

theorem isPresentWith_bound {n : Nat} {s u : State} {found : Bool} (hb : s.bound = true)
    (hp : probeLoop n (s.setPh .busy) = (found, u)) :
    isPresentWith n true s = .next (finish .ok (some found) none none u) := by
  simp [isPresentWith, hb, hp]

theorem isPresentWith_logs {i : Instr} {n : Nat} {hv : Bool} {s t : State} (h : isPresentWith n hv s = .next t) :
    Logs i s t := by
  have busy : Logs i s (s.setPh .busy) := logs_setPh i s .busy
  cases hv with
  | false => rw [isPresentWith_null] at h; cases h; exact busy.trans (logs_finish ..)
  | true =>
    cases hb : s.bound with
    | false => rw [isPresentWith_unbound n hb] at h; cases h
    | true =>
      rcases hp : probeLoop n (s.setPh .busy) with ⟨found, u⟩
      rw [isPresentWith_bound hb hp] at h; cases h
      exact (busy.trans (logs_probeLoop i hp)).trans (logs_finish ..)

theorem getTempWith_sentinel {hv : Bool} {s : State} (ha : (!hv || !s.avail) = true) (n : Nat) (cyc : BitVec 3) :
    getTempWith n cyc hv s = .next (answerSentinel s) := by
  simp only [getTempWith, if_pos ha]

theorem getTempWith_acquire {hv : Bool} {s : State} (ha : (!hv || !s.avail) = false) (n : Nat) (cyc : BitVec 3) :
    getTempWith n cyc hv s = (acquire n cyc s).toOutcome fun _ u => convert u := by
  simp [getTempWith, ha]

theorem getTempWith_logs {i : Instr} {n : Nat} {cyc : BitVec 3} {hv : Bool} {s t : State}
    (h : getTempWith (n + 1) cyc hv s = .next t) : Logs i s t := by
  cases ha : !hv || !s.avail with
  | true =>
    rw [getTempWith_sentinel ha] at h; cases h
    exact (logs_setPh i s .unavailable).trans (logs_finish ..)
  | false =>
    rw [getTempWith_acquire ha] at h
    exact (acquire_logs i n cyc s).toOutcome (.refl i s)
      (fun _ u => (logs_setPh i u .converted).trans (logs_finish ..)) h

/-- A command, whatever it is, logs only the entries listed in `Entry.LoggedBy`. -/
theorem exec_logs {i : Instr} {s t : State} (h : exec i s = .next t) : Logs i s t := by
  have busy : Logs i s (s.setPh .busy) := logs_setPh ..
  cases i with
  | init hv tv => exact initWith_logs (n := Config.probeTrials) h
  | isPresent hv => exact isPresentWith_logs (n := Config.probeTrials) h
  | readRegs hv bv reg len => exact (regRead_logs rfl ..).toOutcome busy (fun _ _ => logs_finish ..) h
  | writeRegs hv bv reg len b => exact (regWrite_logs rfl ..).toOutcome busy (fun _ _ => logs_finish ..) h
  | setMode hv m => exact (setField_logs ..).toOutcome busy (fun _ _ => logs_finish ..) h
  | setCycle hv c => exact (setField_logs ..).toOutcome busy (fun _ _ => logs_finish ..) h
  | isConvDone hv => exact (convDone_logs ..).toOutcome busy (fun _ _ => logs_finish ..) h
  | getTemp hv => exact getTempWith_logs (n := Config.extraPollTrials) h
  | reserved => cases h; exact busy.trans (logs_finish ..)

/-! ## The statements -/

/-- Settles O17: every answered entry that a command can log carries `DEV_ADDR`. -/
theorem everyEventCarriesTheDeviceAddress : Obligations.EveryEventCarriesTheDeviceAddress :=
  fun _ _ _ h _ he ha => ((exec_logs h).of_mem_added he).device_eq ha

/-- Settles O18: the only reads and writes of another form are those the host chose. -/
theorem ownAccessesAreTwoBytes : Obligations.OwnAccessesAreTwoBytes :=
  fun _ _ _ hi h _ he => ((exec_logs h).of_mem_added he).isOwnAccess hi

end Sys2Proof.Machine

/-! IS_PRESENT (40_presence_init R110, R111). The probe loop is read off `probeFrom_did` for both ends that R110 names,
a first `Ready` or none; O26 is read off its result. -/

namespace Sys2Proof.Machine

/-! ## The two ends of the probe loop -/

/-- Attempts that are all answered `NotReady`, as entries of the log. -/
theorem map_probeEvent_of_notReady {s : State} {k : Nat} (h : ∀ j < k, okAt s j = false) :
    (List.range k).map (fun j => probeEvent (okAt s j)) = List.replicate k (probeEvent false) := by
  rw [List.map_congr_left fun j hj => congrArg probeEvent (h j (List.mem_range.1 hj)), List.map_const',
    List.length_range]

/-- The probe loop of R110, whatever the answers: `k` attempts, counted in `pcnt`; the last is the first `Ready`, or the
budget is used up without one. -/
theorem probeLoop_did (n : Nat) (s : State) :
    ∃ k u found, probeLoop n s = (found, u) ∧ k ≤ n ∧ Did ((List.range k).map fun j => probeEvent (okAt s j)) s u ∧
      u.work = { s.work with pcnt := k } ∧
      (found = true → 0 < k ∧ okAt s (k - 1) = true ∧ ∀ j < k - 1, okAt s j = false) ∧
      (found = false → k = n ∧ ∀ j < k, okAt s j = false) := by
  obtain ⟨k, hk, hdid, hwork, -, -, hready, hnone⟩ := probeFrom_did n (s.setWork { s.work with pcnt := 0 })
  exact ⟨k, _, _, rfl, hk, (did_setWork s _).trans hdid, by simpa using hwork, hready, hnone⟩

/-- When the first `Ready` answers attempt `k + 1` of the budget, the loop stops there and returns true (R110). -/
theorem probeLoop_ready {n k : Nat} {s : State} (hk : k < n) (hok : okAt s k = true)
    (hno : ∀ j < k, okAt s j = false) :
    ∃ u, probeLoop n s = (true, u) ∧ Did (List.replicate k (probeEvent false) ++ [probeEvent true]) s u ∧
      u.work = { s.work with pcnt := k + 1 } := by
  obtain ⟨m, u, found, hp, -, hdid, hwork, hready, hnone⟩ := probeLoop_did n s
  cases found with
  | false =>
    obtain ⟨rfl, hall⟩ := hnone rfl
    simp [hall k hk] at hok
  | true =>
    obtain ⟨hpos, hlast, hbefore⟩ := hready rfl
    obtain rfl : m = k + 1 := by
      rcases Nat.lt_trichotomy k (m - 1) with h | h | h
      · simp [hbefore k h] at hok
      · omega
      · simp [hno _ h] at hlast
    exact ⟨u, hp, by simpa [List.range_succ, map_probeEvent_of_notReady hno, hok] using hdid, hwork⟩

/-- When no attempt of the budget is answered `Ready`, the loop makes all of them and returns false (R110). -/
theorem probeLoop_notReady {n : Nat} {s : State} (hno : ∀ j < n, okAt s j = false) :
    ∃ u, probeLoop n s = (false, u) ∧ Did (List.replicate n (probeEvent false)) s u ∧
      u.work = { s.work with pcnt := n } := by
  obtain ⟨k, u, found, hp, hk, hdid, hwork, hready, hnone⟩ := probeLoop_did n s
  cases found with
  | false =>
    obtain ⟨rfl, -⟩ := hnone rfl
    exact ⟨u, hp, map_probeEvent_of_notReady hno ▸ hdid, hwork⟩
  | true =>
    obtain ⟨hpos, hlast, -⟩ := hready rfl
    simp [hno (k - 1) (by omega)] at hlast

/-! ## The command -/

/-- IS_PRESENT of a bound block, given what its probe loop did: the result is `flag`, and `avail`, `bound` are kept. -/
theorem isPresentWith_outcome {n : Nat} {s u : State} {found : Bool} {es : List Entry} (hb : s.bound = true)
    (hp : probeLoop n (s.setPh .busy) = (found, u)) (hd : Did es (s.setPh .busy) u) :
    ∃ t, isPresentWith n true s = .next t ∧ t.rsp.flag = found ∧ t.rsp.st = .ok ∧ t.avail = s.avail ∧
      t.bound = s.bound ∧ t.work = u.work ∧
      t.log = s.log ++ .phase .busy :: es ++ [.response t.rsp, .phase .idle] :=
  ⟨_, isPresentWith_bound hb hp, rfl, rfl, hd.avail, hd.bound, rfl, by simp [hd.log]⟩

/-- Settles O26: the two ends of the probe loop, and the two ways past it. -/
theorem isPresentAnswersTheProbeLoop : Obligations.IsPresentAnswersTheProbeLoop := by
  refine ⟨by decide, fun s => ⟨?null, isPresentWith_unbound Config.probeTrials, ?ready, ?notReady⟩⟩
  case null => exact ⟨_, isPresentWith_null Config.probeTrials s, rfl, rfl, rfl, rfl, rfl, by simp⟩
  case ready =>
    intro hb k hk hok hno
    obtain ⟨u, hp, hd, hwork⟩ := probeLoop_ready (s := s.setPh .busy) hk hok hno
    obtain ⟨t, ht, hflag, hst, ha, hbd, hw, hlog⟩ := isPresentWith_outcome hb hp hd
    exact ⟨t, ht, hflag, hst, ha, hbd, hw.trans hwork, by simpa using hlog⟩
  case notReady =>
    intro hb hno
    obtain ⟨u, hp, hd, hwork⟩ := probeLoop_notReady (s := s.setPh .busy) hno
    obtain ⟨t, ht, hflag, hst, ha, hbd, hw, hlog⟩ := isPresentWith_outcome hb hp hd
    exact ⟨t, ht, hflag, hst, ha, hbd, hw.trans hwork, hlog⟩

end Sys2Proof.Machine

/-! READ_REGS and WRITE_REGS (41_register_access R120 to R124). Both end in one of three ways: the argument check fails,
the block is not bound, or one transport event is issued and its answer decides. `toOutcome_raise_busy` and
`toOutcome_oneEvent` say once how the first and the third end; O28 and O29 are read off them. -/

namespace Sys2Proof.Machine

/-! ## The arguments and the canonical word -/

/-- The argument check fails in exactly the three cases that R120 and R121 list. -/
theorem argsBad_iff (hv bv : Bool) (len : Int) :
    argsBad hv bv len = true ↔ hv = false ∨ bv = false ∨ len ≤ 0 := by
  simp [argsBad, or_assoc]

/-- A packed word is its four bytes in their places, the first of them `OP` with the valid bits (R80, R82). -/
theorem pack_eq_or (op : BitVec 4) (hv bv tv : Bool) (reg len arg : Byte) :
    pack op hv bv tv reg len arg =
      (op ++ BitVec.ofBool hv ++ BitVec.ofBool bv ++ BitVec.ofBool tv ++ (0 : BitVec 1)).setWidth 32 <<< 24 |||
        reg.setWidth 32 <<< 16 ||| len.setWidth 32 <<< 8 ||| arg.setWidth 32 :=
  (BitVec.setWidth_eq _).symm.trans BitVec.setWidth_append_append_append_eq_shiftLeft_setWidth_or

/-- The canonical word of READ_REGS (R123). -/
theorem encode_readRegs_word (reg len : Byte) :
    (encode (.readRegs true true reg len)).word =
      0x2C000000 ||| reg.setWidth 32 <<< 16 ||| len.setWidth 32 <<< 8 := by
  simp [encode, Instr.opcode, pack_eq_or]

/-- The canonical word of WRITE_REGS, with the byte string beside it (R124). -/
theorem encode_writeRegs (reg len : Byte) (wdata : List Byte) :
    encode (.writeRegs true true reg len wdata) =
      ⟨0x3C000000 ||| reg.setWidth 32 <<< 16 ||| len.setWidth 32 <<< 8, wdata⟩ := by
  simp [encode, Instr.opcode, pack_eq_or]

/-! ## The ends of a command that went through `BUSY` -/

section
variable {α : Type} {s : State} (rdata : α → Option (List Byte))

/-- A command whose procedure raises before any event: the status is the error's, and nothing is logged but the passage
through `BUSY` and the response. -/
theorem toOutcome_raise_busy (e : Status) :
    ∃ t, (Proc.raise (α := α) e (s.setPh .busy)).toOutcome (fun a u => finish .ok none none (rdata a) u) = .next t ∧
      t.rsp.st = e ∧ t.avail = s.avail ∧ t.bound = s.bound ∧ t.work = s.work ∧
      t.log = s.log ++ [.phase .busy, .response t.rsp, .phase .idle] :=
  ⟨_, rfl, rfl, rfl, rfl, rfl, by simp⟩

/-- A command whose procedure is one transport event: the answer to come decides between `OK`, with the bytes that the
returned value gives, and `XPORT_ERR`; `avail`, `bound` and the working registers are kept. -/
theorem toOutcome_oneEvent {v : α} {u : State} {e : Entry} (hd : Did [e] (s.setPh .busy) u) (hw : u.work = s.work) :
    ∃ t, (if okAt s 0 then Proc.ret v u else .raise .xportErr u).toOutcome
          (fun a u => finish .ok none none (rdata a) u) = .next t ∧
      t.avail = s.avail ∧ t.bound = s.bound ∧ t.work = s.work ∧
      t.rsp.st = (if okAt s 0 then .ok else .xportErr) ∧
      (okAt s 0 = true → ∀ b, rdata v = some b → t.rsp.rdata = b) ∧
      t.log = s.log ++ [.phase .busy, e, .response t.rsp, .phase .idle] := by
  cases hok : okAt s 0 with
  | false => exact ⟨_, rfl, hd.avail, hd.bound, hw, rfl, nofun, by simp [hd.log]⟩
  | true =>
    exact ⟨_, rfl, hd.avail, hd.bound, hw, rfl, fun _ b hb => by simp [response, hb], by simp [hd.log]⟩

end

/-! ## The statements -/

/-- Settles O28: the three ends of `RegRead`, the third with the bytes of the answer as `RSP.rdata`. -/
theorem readRegsOutcome : Obligations.ReadRegsOutcome := by
  refine ⟨encode_readRegs_word, fun hv bv reg len s => ?_⟩
  have run : exec (.readRegs hv bv reg len) s = (regRead hv bv reg (lenInt len) (s.setPh .busy)).toOutcome
      fun b u => finish .ok none none (some b) u := rfl
  cases harg : argsBad hv bv (lenInt len) with
  | true =>
    rw [if_pos ((argsBad_iff ..).1 harg), run, regRead_bad harg]
    exact toOutcome_raise_busy some .argErr
  | false =>
    rw [if_neg (by simp [← argsBad_iff, harg]), run]
    cases hb : s.bound with
    | false => rw [regRead_unbound (s := s.setPh .busy) harg reg hb]; rfl
    | true =>
      rw [regRead_bound (s := s.setPh .busy) harg reg hb, ← okAt_zero]
      have hd := did_memRead reg (lenInt len).toNat (s.setPh .busy)
      rw [readAnswer_eq] at hd
      obtain ⟨t, ht, ha, hbd, hw, hst, hdata, hlog⟩ := toOutcome_oneEvent some hd rfl
      have hbytes (h : okAt s 0 = true) : t.rsp.rdata = bytesAt s 0 (lenInt len).toNat := hdata h _ rfl
      exact ⟨t, ht, ha, hbd.trans hb, hw, hst, fun h => ⟨hbytes h, by simp [hbytes h, bytesAt]⟩, hlog⟩

/-- Settles O29: the three ends of `RegWrite`, the third with the bytes as given in the one `MemWrite`. -/
theorem writeRegsOutcome : Obligations.WriteRegsOutcome := by
  refine ⟨encode_writeRegs, fun hv bv reg len wdata s => ?_⟩
  have run : exec (.writeRegs hv bv reg len wdata) s =
      (regWrite hv bv reg (lenInt len) wdata (s.setPh .busy)).toOutcome
        fun _ u => finish .ok none none none u := rfl
  cases harg : argsBad hv bv (lenInt len) with
  | true =>
    rw [if_pos ((argsBad_iff ..).1 harg), run, regWrite_bad harg]
    exact toOutcome_raise_busy _ .argErr
  | false =>
    rw [if_neg (by simp [← argsBad_iff, harg]), run]
    cases hb : s.bound with
    | false => rw [regWrite_unbound (s := s.setPh .busy) harg reg wdata hb]; rfl
    | true =>
      rw [regWrite_bound (s := s.setPh .busy) harg reg wdata hb, ← okAt_zero]
      have hd := did_memWrite reg (lenInt len).toNat wdata (s.setPh .busy)
      rw [← okAt_zero] at hd
      obtain ⟨t, ht, ha, hbd, hw, hst, -, hlog⟩ := toOutcome_oneEvent (v := ()) (fun _ => none) hd rfl
      exact ⟨t, ht, ha, hbd.trans hb, hw, hst, hlog⟩

end Sys2Proof.Machine

/-! SET_MODE and SET_CYCLE (42_config_setters R130 to R135). `exec_setter_bound` says once that both commands are the run
of `setterRun` on their field; O37 and O38 are read off the three ways that run goes. -/

namespace Sys2Proof.Machine

/-! ## The field -/

theorem fieldEq_iff (v mask want : Word) : fieldEq v mask want = true ↔ v &&& mask = want := beq_iff_eq

theorem fieldEq_eq_false_iff (v mask want : Word) : fieldEq v mask want = false ↔ v &&& mask ≠ want :=
  beq_eq_false_iff_ne

/-- The requested bits of a setter lie in its field (R92). -/
theorem want_and_mask {i : Instr} {mask want : Word} (hf : setterField i = some (mask, want)) :
    want &&& mask = want := by
  cases i with
  | setMode hv m => cases hf; cases m <;> rfl
  | setCycle hv c => cases hf; revert c; decide
  | init | isPresent | readRegs | writeRegs | isConvDone | getTemp | reserved => cases hf

/-- The field of the value written is the OR of what was there and what is requested (R134). -/
theorem applyField_and_mask (cur : Word) {mask want : Word} (h : want &&& mask = want) :
    applyField cur mask want &&& mask = (cur &&& mask) ||| want := by
  rw [applyField, h, BitVec.and_or_distrib_right, h]

/-- The bits outside the field are written as they were read (R93, R134). -/
theorem applyField_and_not_mask (cur mask want : Word) :
    applyField cur mask want &&& ~~~mask = cur &&& ~~~mask := by
  simp [applyField, BitVec.and_or_distrib_right, BitVec.and_assoc]

/-! ## The run of a setter -/

section
variable {mask want : Word} {s : State}

theorem setterRun_setPh (p : Phase) : setterRun mask want (s.setPh p) = setterRun mask want s := rfl

theorem setterRun_of_fail (h0 : okAt s 0 = false) : setterRun mask want s = (.xportErr, [configRead none]) := by
  simp [setterRun, h0]

/-- The short-circuit: the field already holds the request (R130, step 2). -/
theorem setterRun_of_eq (h0 : okAt s 0 = true) (hq : wordAt s 0 &&& mask = want) :
    setterRun mask want s = (.ok, [configRead (readAt s 0 2)]) := by
  simp [setterRun, h0, (fieldEq_iff ..).2 hq]

/-- A field that differs is written, and read back unless the write fails (R130, steps 3 and 4). -/
theorem setterRun_of_ne (h0 : okAt s 0 = true) (hq : wordAt s 0 &&& mask ≠ want) :
    setterRun mask want s =
      ((verifyRun mask want (applyField (wordAt s 0) mask want) s 1).1,
        configRead (readAt s 0 2) :: (verifyRun mask want (applyField (wordAt s 0) mask want) s 1).2) := by
  simp [setterRun, h0, (fieldEq_eq_false_iff ..).2 hq]

theorem verifyRun_of_ok {new : Word} {k : Nat} (h0 : okAt s k = true) (h1 : okAt s (k + 1) = true) :
    verifyRun mask want new s k =
      (if wordAt s (k + 1) &&& mask = want then .ok else .verifyErr,
        [configWrite new true, configRead (readAt s (k + 1) 2)]) := by
  simp [verifyRun, h0, h1, fieldEq_iff]

end

/-- However its answers come out, the verifying half of a setter writes once. -/
theorem countP_isWrite_verifyRun (mask want new : Word) (s : State) (k : Nat) :
    (verifyRun mask want new s k).2.countP Entry.isWrite = 1 := by
  unfold verifyRun
  split
  · rfl
  · split <;> rfl

/-- Once its first read is answered, a setter writes once if it found the field different, else not at all. -/
theorem countP_isWrite_setterRun (mask want : Word) {s : State} (h0 : okAt s 0 = true) :
    (setterRun mask want s).2.countP Entry.isWrite = if wordAt s 0 &&& mask = want then 0 else 1 := by
  split
  next hq => rw [setterRun_of_eq h0 hq]; rfl
  next hq => simp [setterRun_of_ne h0 hq, countP_isWrite_verifyRun, configRead, Entry.isWrite]

/-- A setter that ends `OK` has had its first read answered. -/
theorem okAt_of_setterRun_ok {mask want : Word} {s : State} (h : (setterRun mask want s).1 = .ok) :
    okAt s 0 = true := by
  cases h0 : okAt s 0 with
  | true => rfl
  | false => simp [setterRun_of_fail h0] at h

theorem isEvent_of_mem_verifyRun (mask want new : Word) (s : State) (k : Nat) :
    ∀ e ∈ (verifyRun mask want new s k).2, e.isEvent = true := by
  unfold verifyRun
  split
  · simp [configWrite, Entry.isEvent]
  · split <;> simp [configWrite, configRead, Entry.isEvent]

/-- A setter logs nothing but transport events. -/
theorem isEvent_of_mem_setterRun (mask want : Word) (s : State) :
    ∀ e ∈ (setterRun mask want s).2, e.isEvent = true := by
  unfold setterRun
  split
  · simp [configRead, Entry.isEvent]
  · split
    · simp [configRead, Entry.isEvent]
    · exact List.forall_mem_cons.2 ⟨rfl, isEvent_of_mem_verifyRun mask want _ s 1⟩

/-! ## The command -/

theorem toOutcome_ofStatus (st : Status) (u : State) :
    (Proc.ofStatus st u).toOutcome (fun _ v => finish .ok none none none v) =
      .next (finish st none none none u) := by
  cases st <;> rfl

/-- Both setters, given a handle, run `SetField` on their field in `BUSY` (R131, R132). -/
theorem exec_setter {i : Instr} {mask want : Word} (hf : setterField i = some (mask, want))
    (ha : argumentBad i = false) (s : State) :
    exec i s = (setField true mask want (s.setPh .busy)).toOutcome fun _ u => finish .ok none none none u := by
  cases i with
  | setMode hv m =>
    obtain rfl : hv = true := by simpa [argumentBad] using ha
    cases hf; rfl
  | setCycle hv c =>
    obtain rfl : hv = true := by simpa [argumentBad] using ha
    cases hf; rfl
  | init | isPresent | readRegs | writeRegs | isConvDone | getTemp | reserved => cases hf

/-- A setter, given a handle, on a bound block ends with the status and the events of `setterRun` (R130). -/
theorem exec_setter_bound {i : Instr} {mask want : Word} (hf : setterField i = some (mask, want))
    (ha : argumentBad i = false) {s : State} (hb : s.bound = true) :
    ∃ t, exec i s = .next t ∧ t.rsp.st = (setterRun mask want s).1 ∧ t.bound = true ∧
      added s t = .phase .busy :: (setterRun mask want s).2 ++ [.response t.rsp, .phase .idle] := by
  obtain ⟨u, hu, hd, -⟩ := setField_bound mask want (s := s.setPh .busy) hb
  rw [setterRun_setPh] at hu hd
  have hexec : exec i s = .next (finish (setterRun mask want s).1 none none none u) := by
    rw [exec_setter hf ha, hu, toOutcome_ofStatus]
  exact ⟨_, hexec, rfl, hd.bound.trans hb, by simp [added, hd.log]⟩

theorem bound_of_exec_setter {i : Instr} {mask want : Word} (hf : setterField i = some (mask, want))
    (ha : argumentBad i = false) {s t : State} (h : exec i s = .next t) : s.bound = true := by
  cases hb : s.bound with
  | true => rfl
  | false => rw [exec_setter hf ha, setField_unbound (s := s.setPh .busy) _ _ hb] at h; cases h

/-- The transport events and the writes of a setter are those of its run. -/
theorem events_of_setter_added {s t : State} {mask want : Word}
    (h : added s t = .phase .busy :: (setterRun mask want s).2 ++ [.response t.rsp, .phase .idle]) :
    eventsOf (added s t) = (setterRun mask want s).2 ∧
      (added s t).countP Entry.isWrite = (setterRun mask want s).2.countP Entry.isWrite := by
  have hall := List.filter_eq_self.2 (isEvent_of_mem_setterRun mask want s)
  constructor
  · simp [h, eventsOf, Entry.isEvent, hall]
  · simp [h, Entry.isWrite]

/-! ## The statements -/

/-- Settles O37: the short-circuit, and the full run with the read-back's field rewritten as the OR of both. -/
theorem orOnlySetterOutcomes : Obligations.OrOnlySetterOutcomes := by
  intro i s mask want hf ha hb h0
  obtain ⟨t, ht, hst, -, hadd⟩ := exec_setter_bound hf ha hb
  obtain ⟨hev, -⟩ := events_of_setter_added hadd
  constructor
  · intro hq
    rw [setterRun_of_eq h0 hq] at hst hev
    exact ⟨t, ht, hst, hev⟩
  · intro hq h1 h2 hkept
    rw [setterRun_of_ne h0 hq, verifyRun_of_ok h1 h2, hkept] at hst hev
    exact ⟨t, _, ht, hst, hev, applyField_and_mask _ (want_and_mask hf), applyField_and_not_mask ..⟩

/-- Settles O38: the first call leaves the block bound, so the second is again a run of `setterRun`, and the number of
writes of a run depends on the field read only. -/
theorem secondSetterCallShortCircuits : Obligations.SecondSetterCallShortCircuits := by
  intro i s t mask want hf ha hexec
  obtain ⟨t', ht', hst, hbt, hadd⟩ := exec_setter_bound hf ha (bound_of_exec_setter hf ha hexec)
  obtain rfl : t' = t := by rw [hexec] at ht'; cases ht'; rfl
  obtain ⟨u, hu, hust, -, huadd⟩ := exec_setter_bound hf ha hbt
  obtain ⟨huev, huwr⟩ := events_of_setter_added huadd
  refine ⟨fun _ h0 hq => ?_, fun hok => ?_, fun h0 hq => ?_⟩
  · rw [setterRun_of_eq h0 hq] at hust huev
    exact ⟨u, hu, hust, huev⟩
  · have h0 : okAt s 0 = true := okAt_of_setterRun_ok (hst.symm.trans hok)
    rw [(events_of_setter_added hadd).2, countP_isWrite_setterRun mask want h0]
  · exact ⟨u, hu, by rw [huwr, countP_isWrite_setterRun mask want h0, if_neg hq]⟩

end Sys2Proof.Machine

/-! IS_CONV_DONE (43_data_ready R150, R151). `convDone_bound` says what the data-ready check does with an answered or
failed read of Config; O39 is read off it, with the test of bit 13 that R150 asks for. -/

namespace Sys2Proof.Machine

/-- The mask of the data-ready test selects bit 13 (R93). -/
theorem isReady_eq_getLsbD (v : Word) : isReady v = v.getLsbD 13 := by
  have mask : drMask = BitVec.twoPow 16 13 := rfl
  rw [isReady, mask, BitVec.and_twoPow]
  cases v.getLsbD 13 <;> rfl

theorem readyAt_eq_getLsbD (s : State) (k : Nat) : readyAt s k = (okAt s k && (wordAt s k).getLsbD 13) := by
  rw [readyAt, isReady_eq_getLsbD]

/-- IS_CONV_DONE, given how its check returned: `OK`, the value as the flag, and the events of the check between `BUSY`
and the response. -/
theorem exec_isConvDone_of_ret {hv ready : Bool} {s u : State} {es : List Entry}
    (hc : convDone hv (s.setPh .busy) = .ret ready u) (hd : Did es (s.setPh .busy) u) :
    ∃ t, exec (.isConvDone hv) s = .next t ∧ t.rsp.st = .ok ∧ t.rsp.flag = ready ∧ t.work = u.work ∧
      t.log = s.log ++ (.phase .busy :: es ++ [.response t.rsp, .phase .idle]) := by
  have hexec : exec (.isConvDone hv) s = .next (finish .ok (some ready) none none u) := by
    simp [exec, execIsConvDone, hc, Proc.toOutcome]
  exact ⟨_, hexec, rfl, rfl, rfl, by simp [hd.log]⟩

theorem exec_isConvDone_unbound {s : State} (hb : s.bound = false) :
    exec (.isConvDone true) s = .fault .unbound := by
  simp [exec, execIsConvDone, convDone_unbound (s := s.setPh .busy) hb, Proc.toOutcome]

/-- Settles O39: the check returns at once without a handle, faults unbound, and else is one read of Config. -/
theorem isConvDoneOutcome : Obligations.IsConvDoneOutcome := by
  intro hv s
  cases hv with
  | false =>
    rw [if_pos rfl]
    exact exec_isConvDone_of_ret (convDone_null _) (Did.refl _)
  | true =>
    rw [if_neg (by decide)]
    cases hb : s.bound with
    | false =>
      rw [if_pos rfl]
      exact exec_isConvDone_unbound hb
    | true =>
      rw [if_neg (by decide)]
      obtain ⟨u, hc, hd, -, -, -, hread⟩ := convDone_bound (s := s.setPh .busy) hb
      obtain ⟨t, ht, hst, hflag, hwork, hlog⟩ := exec_isConvDone_of_ret hc hd
      exact ⟨t, ht, hst, hflag.trans (readyAt_eq_getLsbD s 0), fun hok => hwork ▸ hread hok, hlog⟩

end Sys2Proof.Machine

/-! GET_TEMP on an unavailable or null handle, and the worked values of the converter (44_temperature R161, R168).
`getTempWith_sentinel` says that both handles take the branch of the sentinel; O41 is read off it and what that branch
logs. -/

namespace Sys2Proof.Machine

/-- The branch of the sentinel logs the passage through `UNAVAILABLE` and the response, and no transport event (R161). -/
@[simp] theorem answerSentinel_log (s : State) :
    (answerSentinel s).log = s.log ++ [.phase .unavailable, .response (answerSentinel s).rsp, .phase .idle] := by
  simp [answerSentinel]

/-- GET_TEMP answers the sentinel on a null handle and on an unavailable one, whatever `bound` is (R161). -/
theorem exec_getTemp_sentinel {hv : Bool} {s : State} (h : hv = false ∨ s.avail = false) :
    exec (.getTemp hv) s = .next (answerSentinel s) := by
  have hbranch : (!hv || !s.avail) = true := by simpa using h
  exact getTempWith_sentinel hbranch Config.pollTrials Config.cycForced

/-- Settles O41: the state reached is that of the sentinel's branch, which writes no working register. -/
theorem getTempAnswersTheSentinel : Obligations.GetTempAnswersTheSentinel := by
  intro hv s h
  exact ⟨answerSentinel s, exec_getTemp_sentinel h, rfl, rfl, rfl, rfl, answerSentinel_log s⟩

/-- Settles O50: the ten rows of R168, each by evaluating the converter on its sample. -/
theorem converterWorkedValues : Obligations.ConverterWorkedValues := by
  unfold Obligations.ConverterWorkedValues
  decide

end Sys2Proof.Machine

/-! How a command ends (60_exceptions R180 to R193). `exec_ends` says once, for every command and every state, that it
faults for want of a binding or responds, with what it logged and kept (`Runs`) and which response its events led to
(`Answers`); O13 and O19 to O22 are read off it. -/

namespace Sys2Proof.Machine

/-! ## The six ways a setter ends -/

/-- The ends of R130, the status with the events: each access can fail and is then the last; a field that holds the
request after the first read is not written; else the field read back decides. -/
inductive SetterEnds (mask want : Word) : Status × List Entry → Prop where
  | readFailed : SetterEnds mask want (.xportErr, [configRead none])
  | alreadySet (b : List Byte) : SetterEnds mask want (.ok, [configRead (some b)])
  | writeFailed (b : List Byte) (v : Word) :
      SetterEnds mask want (.xportErr, [configRead (some b), configWrite v false])
  | readBackFailed (b : List Byte) (v : Word) :
      SetterEnds mask want (.xportErr, [configRead (some b), configWrite v true, configRead none])
  | verified (b : List Byte) (v : Word) {c : List Byte} {x : Word} (hc : pairValue (some c) = some x)
      (hx : fieldEq x mask want = true) :
      SetterEnds mask want (.ok, [configRead (some b), configWrite v true, configRead (some c)])
  | mismatch (b : List Byte) (v : Word) {c : List Byte} {x : Word} (hc : pairValue (some c) = some x)
      (hx : fieldEq x mask want = false) :
      SetterEnds mask want (.verifyErr, [configRead (some b), configWrite v true, configRead (some c)])

/-- Once the field differs, the answers to the write and to the read-back, and the field read back, decide. -/
theorem verifyRun_ends (mask want new : Word) (b : List Byte) (s : State) (k : Nat) :
    SetterEnds mask want
      ((verifyRun mask want new s k).1, configRead (some b) :: (verifyRun mask want new s k).2) := by
  cases hw : okAt s k with
  | false => simpa [verifyRun, hw] using .writeFailed b new
  | true =>
    cases hr : okAt s (k + 1) with
    | false => simpa [verifyRun, hw, hr] using .readBackFailed b new
    | true =>
      cases hx : fieldEq (wordAt s (k + 1)) mask want with
      | false => simpa [verifyRun, hw, hr, hx, readAt_two] using .mismatch b new rfl hx
      | true => simpa [verifyRun, hw, hr, hx, readAt_two] using .verified b new rfl hx

theorem setterRun_ends (mask want : Word) (s : State) : SetterEnds mask want (setterRun mask want s) := by
  cases h0 : okAt s 0 with
  | false => rw [setterRun_of_fail h0]; exact .readFailed
  | true =>
    by_cases hq : wordAt s 0 &&& mask = want
    · rw [setterRun_of_eq h0 hq, readAt_two h0]; exact .alreadySet _
    · rw [setterRun_of_ne h0 hq, readAt_two h0]; exact verifyRun_ends ..

section
variable {mask want : Word} {run : Status × List Entry} (h : SetterEnds mask want run)
include h

theorem SetterEnds.status_mem : run.1 ∈ [Status.ok, .xportErr, .verifyErr] := by
  cases h <;> simp

/-- A setter ends with `XPORT_ERR` exactly when one of its accesses failed (R182). -/
theorem SetterEnds.xportErr_iff : run.1 = .xportErr ↔ ∃ e ∈ run.2, e.failed = true := by
  cases h <;> simp [configRead, configWrite, Entry.failed]

/-- Nothing follows a failed access (R182, R189). -/
theorem SetterEnds.not_failed_of_mem_dropLast : ∀ e ∈ run.2.dropLast, e.failed = false := by
  cases h <;> simp [configRead, configWrite, Entry.failed]

/-- A setter ends with `VERIFY_ERR` exactly when all three accesses were answered and the field read back is not the
requested one (R183). -/
theorem SetterEnds.verifyErr_iff :
    run.1 = .verifyErr ↔ ∃ v b c x, run.2 = [configRead (some b), configWrite v true, configRead (some c)] ∧
      pairValue (some c) = some x ∧ fieldEq x mask want = false := by
  cases h with
  | readFailed | alreadySet | writeFailed | readBackFailed => simp [configRead, configWrite]
  | mismatch b v hc hx => simpa using ⟨v, b, _, ⟨rfl, rfl, rfl⟩, _, hc, hx⟩
  | verified b v hc hx =>
    refine iff_of_false (by simp) ?_
    rintro ⟨v', b', c', x', hrun, hc', hx'⟩
    simp only [List.cons.injEq, configRead, Entry.memRead.injEq, Option.some.injEq] at hrun
    obtain ⟨-, -, ⟨-, -, -, -, rfl⟩, -⟩ := hrun
    rw [hc, Option.some.injEq] at hc'
    rw [← hc', hx] at hx'
    cases hx'

end

/-! ## The commands by kind -/

theorem argumentBad_init (hv tv : Bool) : argumentBad (.init hv tv) = !(hv && tv) := (Bool.not_and ..).symm

/-- A bad argument is found before any event (R122, R189). -/
theorem usesBus_of_argumentBad {i : Instr} (h : argumentBad i = true) (s : State) : usesBus i s = false := by
  cases i with
  | init hv tv => rwa [argumentBad_init, Bool.not_eq_true'] at h
  | readRegs | writeRegs | setMode | setCycle => simpa [usesBus, argumentBad] using h
  | isPresent | isConvDone | getTemp => cases h
  | reserved => rfl

theorem allowedStatuses_of_argumentBad {i : Instr} (h : argumentBad i = true) (s : State) :
    allowedStatuses i s = [.argErr] := by
  cases i with
  | init hv tv =>
    have hgood : (hv && tv) = false := usesBus_of_argumentBad h s
    simp [allowedStatuses, hgood]
  | readRegs | writeRegs => exact if_pos h
  | setMode | setCycle => simpa [allowedStatuses, argumentBad] using h
  | isPresent | isConvDone | getTemp => cases h
  | reserved => rfl

theorem allowedStatuses_of_setter {i : Instr} {mask want : Word} (hf : setterField i = some (mask, want))
    (ha : argumentBad i = false) (s : State) : allowedStatuses i s = [.ok, .xportErr, .verifyErr] := by
  cases i with
  | setMode | setCycle => simpa [allowedStatuses, argumentBad] using ha
  | init | isPresent | readRegs | writeRegs | isConvDone | getTemp | reserved => cases hf

theorem allowedStatuses_of_access {i : Instr} (hi : isRegisterAccess i = true) (ha : argumentBad i = false)
    (s : State) : allowedStatuses i s = [.ok, .xportErr] := by
  cases i with
  | readRegs | writeRegs => exact if_neg (by simpa [argumentBad] using ha)
  | init | isPresent | setMode | setCycle | isConvDone | getTemp | reserved => cases hi

theorem usesBus_of_access {i : Instr} (hi : isRegisterAccess i = true) (ha : argumentBad i = false) (s : State) :
    usesBus i s = true := by
  cases i with
  | readRegs | writeRegs => simpa [usesBus, argumentBad] using ha
  | init | isPresent | setMode | setCycle | isConvDone | getTemp | reserved => cases hi

theorem usesBus_of_setter {i : Instr} {mask want : Word} (hf : setterField i = some (mask, want))
    (ha : argumentBad i = false) (s : State) : usesBus i s = true := by
  cases i with
  | setMode | setCycle => simpa [usesBus, argumentBad] using ha
  | init | isPresent | readRegs | writeRegs | isConvDone | getTemp | reserved => cases hf

theorem isInit_of_setter {i : Instr} {mask want : Word} (hf : setterField i = some (mask, want)) :
    isInit i = false := by
  cases i with
  | setMode | setCycle => rfl
  | init | isPresent | readRegs | writeRegs | isConvDone | getTemp | reserved => cases hf

theorem setterField_of_access {i : Instr} (hi : isRegisterAccess i = true) : setterField i = none := by
  cases i with
  | readRegs | writeRegs => rfl
  | init | isPresent | setMode | setCycle | isConvDone | getTemp | reserved => cases hi

theorem faultsUnbound_of_argumentBad {i : Instr} (h : argumentBad i = true) (s : State) :
    faultsUnbound i s = false := by
  simp [faultsUnbound, usesBus_of_argumentBad h]

theorem faultsUnbound_of_bound (i : Instr) {s : State} (hb : s.bound = true) : faultsUnbound i s = false := by
  simp [faultsUnbound, hb]

theorem faultsUnbound_of_unbound {i : Instr} {s : State} (hu : usesBus i s = true) (hi : isInit i = false)
    (hb : s.bound = false) : faultsUnbound i s = true := by
  simp [faultsUnbound, hu, hi, hb]

/-- GET_TEMP comes to an event only on an available handle, which the invariant binds (R193, D10). -/
theorem faultsUnbound_of_getTemp {i : Instr} {s : State} (hs : s.Inv) (hi : isGetTemp i = true) :
    faultsUnbound i s = false := by
  cases i with
  | getTemp hv =>
    obtain ⟨hbound, -⟩ := hs
    cases ha : s.avail with
    | true => exact faultsUnbound_of_bound _ (hbound ha)
    | false => simp [faultsUnbound, usesBus, ha]
  | init | isPresent | readRegs | writeRegs | setMode | setCycle | isConvDone | reserved => cases hi

/-! ## The response -/

/-- The response `r` that `i`, begun in `s`, gives after the transport events `evs`: an argument is bad; or `i` is one
of the four commands that report no failure (R186), or a register command, whose one event decides, or a setter. -/
inductive Answers (i : Instr) (s : State) : List Entry → Rsp → Prop where
  | badArgument (ha : argumentBad i = true) : Answers i s [] (response .argErr none none none s.draws)
  | report {evs : List Entry} {r : Rsp} (ha : argumentBad i = false) (hi : isRegisterAccess i = false)
      (hf : setterField i = none) (hst : r.st ∈ allowedStatuses i s) (hgood : r.st = .ok ∨ r.st = .unavailable) :
      Answers i s evs r
  | access {e : Entry} {r : Rsp} (ha : argumentBad i = false) (hi : isRegisterAccess i = true)
      (he : e.failed = false) (hst : r.st = .ok) : Answers i s [e] r
  | accessFailed {e : Entry} (ha : argumentBad i = false) (hi : isRegisterAccess i = true) (he : e.failed = true) :
      Answers i s [e] (response .xportErr none none none s.draws)
  | setter {mask want : Word} {run : Status × List Entry} (ha : argumentBad i = false)
      (hf : setterField i = some (mask, want)) (hrun : SetterEnds mask want run) :
      Answers i s run.2 (response run.1 none none none s.draws)

section
variable {i : Instr} {s : State} {evs : List Entry} {r : Rsp} (h : Answers i s evs r)
include h

theorem Answers.status_mem : r.st ∈ allowedStatuses i s := by
  cases h with
  | badArgument ha => simp [allowedStatuses_of_argumentBad ha]
  | report _ _ _ hst => exact hst
  | access ha hi _ hst => simp [allowedStatuses_of_access hi ha, hst]
  | accessFailed ha hi => simp [allowedStatuses_of_access hi ha]
  | setter ha hf hrun => rw [allowedStatuses_of_setter hf ha]; exact hrun.status_mem

theorem Answers.argErr_iff : r.st = .argErr ↔ argumentBad i = true := by
  cases h with
  | badArgument ha => simp [ha]
  | report ha _ _ _ hgood => rcases hgood with hgood | hgood <;> simp [ha, hgood]
  | access ha _ _ hst => simp [ha, hst]
  | accessFailed ha => simp [ha]
  | setter ha _ hrun => cases hrun <;> simp [ha]

/-- The error that an argument raises comes before any event and leaves every other field of the response free (R181). -/
theorem Answers.of_argErr (hst : r.st = .argErr) : evs = [] ∧ r = response .argErr none none none s.draws := by
  have hbad := h.argErr_iff.1 hst
  cases h with
  | badArgument => exact ⟨rfl, rfl⟩
  | report ha | access ha | accessFailed ha | setter ha => simp [hbad] at ha

theorem Answers.xportErr_iff :
    r.st = .xportErr ↔ (isRegisterAccess i = true ∨ setterField i ≠ none) ∧ ∃ e ∈ evs, e.failed = true := by
  cases h with
  | badArgument => simp
  | report _ hi hf _ hgood => rcases hgood with hgood | hgood <;> simp [hi, hf, hgood]
  | access _ _ he hst => simp [hst, he]
  | accessFailed _ hi he => simp [hi, he]
  | setter _ hf hrun => simp [hf, hrun.xportErr_iff]

/-- The error of a failed access ends the command with that access and leaves every other field free (R182). -/
theorem Answers.of_xportErr (hst : r.st = .xportErr) :
    (∀ e ∈ evs.dropLast, e.failed = false) ∧ r = response .xportErr none none none s.draws := by
  cases h with
  | badArgument => cases hst
  | report _ _ _ _ hgood => simp [hst] at hgood
  | access _ _ _ hok => simp [hst] at hok
  | accessFailed => exact ⟨by simp, rfl⟩
  | setter _ _ hrun => exact ⟨hrun.not_failed_of_mem_dropLast, by rw [← hst, response_st]⟩

theorem Answers.verifyErr_iff :
    r.st = .verifyErr ↔ ∃ mask want v b c x, setterField i = some (mask, want) ∧
      evs = [configRead (some b), configWrite v true, configRead (some c)] ∧
      pairValue (some c) = some x ∧ fieldEq x mask want = false := by
  cases h with
  | badArgument => simp
  | report _ _ hf _ hgood => rcases hgood with hgood | hgood <;> simp [hf, hgood]
  | access _ _ _ hst => simp [hst]
  | accessFailed => simp
  | @setter mask want _ _ hf hrun =>
    rw [response_st, hrun.verifyErr_iff]
    constructor
    · rintro ⟨v, b, c, x, hend⟩
      exact ⟨mask, want, v, b, c, x, hf, hend⟩
    · rintro ⟨mask', want', v, b, c, x, hf', hend⟩
      rw [hf] at hf'
      cases hf'
      exact ⟨v, b, c, x, hend⟩

/-- The error of a failed verification leaves every other field free (R183). -/
theorem Answers.of_verifyErr (hst : r.st = .verifyErr) : r = response .verifyErr none none none s.draws := by
  cases h with
  | badArgument | accessFailed => cases hst
  | report _ _ _ _ hgood => simp [hst] at hgood
  | access _ _ _ hok => simp [hst] at hok
  | setter => rw [← hst, response_st]

end

/-! ## What a command keeps -/

/-- The two counters fit their budgets (R26). -/
def Work.Fits (w : Work) : Prop := w.pcnt ≤ Config.probeTrials ∧ w.wcnt ≤ Config.pollTrials

/-- From `s` to `u`, just before its response, a command has logged `es`, none of them a response, and has kept the
clauses of the invariant. -/
structure Runs (es : List Entry) (s u : State) : Prop where
  log : u.log = s.log ++ es
  noResponse : responsesOf es = []
  bound : (s.avail = true → s.bound = true) → u.avail = true → u.bound = true
  fits : s.work.Fits → u.work.Fits

theorem Did.runs {es : List Entry} {s u : State} (h : Did es s u) (hes : responsesOf es = [])
    (hfits : s.work.Fits → u.work.Fits) : Runs es s u :=
  ⟨h.log, hes, by rw [h.avail, h.bound]; exact id, hfits⟩

theorem isResponse_of_isEvent {e : Entry} (h : e.isEvent = true) : e.isResponse = false := by
  cases e with
  | probe | memRead | memWrite | sleep | phase | reset => rfl
  | response => cases h

theorem responsesOf_eq_nil {es : List Entry} (h : ∀ e ∈ es, e.isResponse = false) : responsesOf es = [] :=
  List.filter_eq_nil_iff.2 fun e he => by simp [h e he]

/-- A phase and then nothing but transport events: no response, and the events are what follows the phase. -/
theorem responsesOf_phase_cons (p : Phase) {evs : List Entry} (h : ∀ e ∈ evs, e.isEvent = true) :
    responsesOf (.phase p :: evs) = [] :=
  responsesOf_eq_nil (List.forall_mem_cons.2 ⟨rfl, fun e he => isResponse_of_isEvent (h e he)⟩)

theorem eventsOf_phase_cons (p : Phase) {evs : List Entry} (h : ∀ e ∈ evs, e.isEvent = true) :
    eventsOf (.phase p :: evs) = evs :=
  List.filter_eq_self.2 h

theorem isResponse_of_mem_acquireEvents (cyc : BitVec 3) (s : State) (k : Nat) :
    ∀ e ∈ acquireEvents cyc s k, e.isResponse = false := by
  have setter (mask want : Word) (s : State) : ∀ e ∈ (setterRun mask want s).2, e.isResponse = false :=
    fun e he => isResponse_of_isEvent (isEvent_of_mem_setterRun mask want s e he)
  have poll (s : State) : ∀ e ∈ pollEvents s k, e.isResponse = false :=
    forall_mem_intersperse (p := fun e => Entry.isResponse e = false) rfl (List.forall_mem_map.2 fun _ _ => rfl)
  simp only [acquireEvents, List.cons_append, List.forall_mem_cons, List.forall_mem_append]
  exact ⟨rfl, setter _ _ _, rfl, setter _ _ _, rfl, poll _, rfl, rfl, by simp⟩

/-! ## The ends of a command -/

/-- The two ends of a command: it comes to an event with nothing bound (R193), or it responds, after `es`. -/
inductive Ends (i : Instr) (s : State) : Host.Outcome State Fault Refusal → Prop where
  | unbound (hf : faultsUnbound i s = true) : Ends i s (.fault .unbound)
  | responds {es : List Entry} {u : State} {st : Status} {flag : Option Bool} {temp : Option (BitVec 32 × Word)}
      {rdata : Option (List Byte)} (hf : faultsUnbound i s = false) (hr : Runs es s u)
      (ha : Answers i s (eventsOf es) (response st flag temp rdata u.draws)) :
      Ends i s (.next (finish st flag temp rdata u))

theorem ends_badArgument {i : Instr} (ha : argumentBad i = true) (s : State) :
    Ends i s (.next (raiseError .argErr (s.setPh .busy))) :=
  .responds (faultsUnbound_of_argumentBad ha s) ((did_setPh s .busy).runs rfl id) (.badArgument ha)

theorem init_ends (hv tv : Bool) (s : State) : Ends (.init hv tv) s (exec (.init hv tv) s) := by
  have run : exec (.init hv tv) s = initWith Config.probeTrials hv tv s := rfl
  cases ha : argumentBad (.init hv tv) with
  | true => rw [run, initWith_bad ha]; exact ends_badArgument ha s
  | false =>
    obtain ⟨k, u, found, hp, hk, hd, hw, -⟩ := probeLoop_did Config.probeTrials ((s.setPh .busy).setBound true)
    have hgood : (hv && tv) = true := by simpa [argumentBad_init] using ha
    rw [run, initWith_good ha hp]
    have hr : Runs (.phase .busy :: (List.range k).map fun j => probeEvent (okAt s j)) s (u.setAvail found) :=
      { log := hd.log.trans (List.append_assoc ..)
        noResponse := responsesOf_phase_cons _ (List.forall_mem_map.2 fun _ _ => rfl)
        bound := fun _ _ => hd.bound
        fits := fun h => by simpa [Work.Fits, hw] using ⟨hk, h.2⟩ }
    refine .responds (by simp [faultsUnbound, isInit]) hr (.report ha rfl rfl ?_ ?_)
    · cases found <;> simp [allowedStatuses, hgood]
    · cases found <;> simp

theorem isPresent_ends (hv : Bool) (s : State) : Ends (.isPresent hv) s (exec (.isPresent hv) s) := by
  have run : exec (.isPresent hv) s = isPresentWith Config.probeTrials hv s := rfl
  have answer {evs : List Entry} {r : Rsp} (hst : r.st = .ok) : Answers (.isPresent hv) s evs r :=
    .report rfl rfl rfl (by simp [allowedStatuses, hst]) (.inl hst)
  cases hv with
  | false =>
    rw [run, isPresentWith_null]
    exact .responds rfl ((did_setPh s .busy).runs rfl id) (answer rfl)
  | true =>
    cases hb : s.bound with
    | false => rw [run, isPresentWith_unbound _ hb]; exact .unbound (faultsUnbound_of_unbound rfl rfl hb)
    | true =>
      obtain ⟨k, u, found, hp, hk, hd, hw, -⟩ := probeLoop_did Config.probeTrials (s.setPh .busy)
      rw [run, isPresentWith_bound hb hp]
      refine .responds (faultsUnbound_of_bound _ hb) (((did_setPh s .busy).trans hd).runs ?_ fun h => ?_) (answer rfl)
      · exact responsesOf_phase_cons _ (List.forall_mem_map.2 fun _ _ => rfl)
      · simpa [Work.Fits, hw] using ⟨hk, h.2⟩

theorem failed_memRead (dev : Nat) (reg : Byte) (n wait : Nat) (answer : Option (List Byte)) :
    (Entry.memRead dev reg n wait answer).failed = answer.isNone := by
  cases answer <;> rfl

theorem failed_memWrite (dev : Nat) (reg : Byte) (n : Nat) (b : List Byte) (wait : Nat) (ok : Bool) :
    (Entry.memWrite dev reg n b wait ok).failed = !ok := by
  cases ok <;> rfl

theorem isNone_readAnswer (s : State) (n : Nat) : (s.readAnswer n).isNone = !s.answerOk := by
  cases hok : s.answerOk <;> simp [State.readAnswer, hok]

/-- A register command whose one event `e` was issued: the answer decides. -/
theorem ends_oneEvent {i : Instr} {s u : State} {e : Entry} {α : Type} {v : α} (rdata : α → Option (List Byte))
    (ha : argumentBad i = false) (hi : isRegisterAccess i = true) (hb : s.bound = true)
    (hd : Did [e] (s.setPh .busy) u) (hw : u.work = s.work) (hdr : u.draws = s.draws) (he : e.isEvent = true)
    (hok : e.failed = !s.answerOk) :
    Ends i s ((if s.answerOk then Proc.ret v u else .raise .xportErr u).toOutcome
      fun a u => finish .ok none none (rdata a) u) := by
  have hevs : ∀ x ∈ [e], x.isEvent = true := by simpa using he
  have hr : Runs (.phase .busy :: [e]) s u :=
    ((did_setPh s .busy).trans hd).runs (responsesOf_phase_cons _ hevs) (hw ▸ id)
  have hf : faultsUnbound i s = false := faultsUnbound_of_bound i hb
  have hanswer (r : Rsp) (h : Answers i s [e] r) : Answers i s (eventsOf (.phase .busy :: [e])) r :=
    (eventsOf_phase_cons _ hevs).symm ▸ h
  cases hk : s.answerOk with
  | true => exact .responds hf hr (hanswer _ (.access ha hi (by simpa [hk] using hok) rfl))
  | false => exact .responds hf hr (hanswer _ (hdr ▸ .accessFailed ha hi (by simpa [hk] using hok)))

theorem readRegs_ends (hv bv : Bool) (reg len : Byte) (s : State) :
    Ends (.readRegs hv bv reg len) s (exec (.readRegs hv bv reg len) s) := by
  have run : exec (.readRegs hv bv reg len) s = (regRead hv bv reg (lenInt len) (s.setPh .busy)).toOutcome
      fun b u => finish .ok none none (some b) u := rfl
  rw [run]
  cases ha : argumentBad (.readRegs hv bv reg len) with
  | true => rw [regRead_bad ha]; exact ends_badArgument ha s
  | false =>
    cases hb : s.bound with
    | false =>
      rw [regRead_unbound ha reg (s := s.setPh .busy) hb]
      exact .unbound (faultsUnbound_of_unbound (usesBus_of_access rfl ha s) rfl hb)
    | true =>
      rw [regRead_bound ha reg (s := s.setPh .busy) hb]
      refine ends_oneEvent some ha rfl hb (did_memRead ..) rfl rfl rfl ?_
      exact (failed_memRead ..).trans (isNone_readAnswer ..)

theorem writeRegs_ends (hv bv : Bool) (reg len : Byte) (wdata : List Byte) (s : State) :
    Ends (.writeRegs hv bv reg len wdata) s (exec (.writeRegs hv bv reg len wdata) s) := by
  have run : exec (.writeRegs hv bv reg len wdata) s =
      (regWrite hv bv reg (lenInt len) wdata (s.setPh .busy)).toOutcome
        fun _ u => finish .ok none none none u := rfl
  rw [run]
  cases ha : argumentBad (.writeRegs hv bv reg len wdata) with
  | true => rw [regWrite_bad ha]; exact ends_badArgument ha s
  | false =>
    cases hb : s.bound with
    | false =>
      rw [regWrite_unbound ha reg wdata (s := s.setPh .busy) hb]
      exact .unbound (faultsUnbound_of_unbound (usesBus_of_access rfl ha s) rfl hb)
    | true =>
      rw [regWrite_bound ha reg wdata (s := s.setPh .busy) hb]
      exact ends_oneEvent (fun _ => none) ha rfl hb (did_memWrite ..) rfl rfl rfl (failed_memWrite ..)

/-- Both setters without a handle raise `ARG_ERR` in `BUSY` (R131, R132). -/
theorem exec_setter_null {i : Instr} {mask want : Word} (hf : setterField i = some (mask, want))
    (ha : argumentBad i = true) (s : State) : exec i s = .next (raiseError .argErr (s.setPh .busy)) := by
  have hnull := setField_null mask want (s.setPh .busy)
  cases i with
  | setMode hv m | setCycle hv m =>
    obtain rfl : hv = false := by simpa [argumentBad] using ha
    cases hf
    simp [exec, execSetMode, execSetCycle, hnull, Proc.toOutcome]
  | init | isPresent | readRegs | writeRegs | isConvDone | getTemp | reserved => cases hf

theorem setter_ends {i : Instr} {mask want : Word} (hf : setterField i = some (mask, want)) (s : State) :
    Ends i s (exec i s) := by
  cases ha : argumentBad i with
  | true => rw [exec_setter_null hf ha]; exact ends_badArgument ha s
  | false =>
    rw [exec_setter hf ha]
    cases hb : s.bound with
    | false =>
      rw [setField_unbound mask want (s := s.setPh .busy) hb]
      exact .unbound (faultsUnbound_of_unbound (usesBus_of_setter hf ha s) (isInit_of_setter hf) hb)
    | true =>
      obtain ⟨u, hu, hd, -, hdr, ⟨-, -, hpcnt, hwcnt⟩, -⟩ := setField_bound mask want (s := s.setPh .busy) hb
      rw [hu, toOutcome_ofStatus]
      have hevs := isEvent_of_mem_setterRun mask want (s.setPh .busy)
      refine .responds (faultsUnbound_of_bound i hb)
        (((did_setPh s .busy).trans hd).runs (responsesOf_phase_cons _ hevs) fun h => ?fits) ?answers
      case fits => simpa [Work.Fits, hpcnt, hwcnt] using h
      case answers =>
        rw [List.singleton_append, eventsOf_phase_cons _ hevs, hdr]
        exact .setter ha hf (setterRun_ends ..)

theorem isConvDone_ends (hv : Bool) (s : State) : Ends (.isConvDone hv) s (exec (.isConvDone hv) s) := by
  have run : exec (.isConvDone hv) s = (convDone hv (s.setPh .busy)).toOutcome
      fun ready u => finish .ok (some ready) none none u := rfl
  have answer {evs : List Entry} {r : Rsp} (hst : r.st = .ok) : Answers (.isConvDone hv) s evs r :=
    .report rfl rfl rfl (by simp [allowedStatuses, hst]) (.inl hst)
  cases hv with
  | false =>
    rw [run, convDone_null]
    exact .responds rfl ((did_setPh s .busy).runs rfl id) (answer rfl)
  | true =>
    cases hb : s.bound with
    | false => rw [exec_isConvDone_unbound hb]; exact .unbound (faultsUnbound_of_unbound rfl rfl hb)
    | true =>
      obtain ⟨u, hc, hd, -, -, ⟨rx0, rx1, cfg, hw⟩, -⟩ := convDone_bound (s := s.setPh .busy) hb
      rw [run, hc]
      exact .responds (faultsUnbound_of_bound _ hb)
        (((did_setPh s .busy).trans hd).runs rfl fun h => by simpa [Work.Fits, hw] using h) (answer rfl)

theorem getTemp_ends (hv : Bool) (s : State) : Ends (.getTemp hv) s (exec (.getTemp hv) s) := by
  cases hu : hv && s.avail with
  | false =>
    rw [exec_getTemp_sentinel ((Bool.and_eq_false_iff ..).1 hu)]
    exact .responds (by simp [faultsUnbound, usesBus, hu]) ((did_setPh s .unavailable).runs rfl id)
      (.report rfl rfl rfl (by simp [allowedStatuses, hu]) (.inr rfl))
  | true =>
    have run : exec (.getTemp hv) s = (acquire Config.pollTrials Config.cycForced s).toOutcome fun _ u => convert u :=
      getTempWith_acquire (by simpa using hu) ..
    cases hb : s.bound with
    | false => rw [run, acquire_unbound _ _ hb]; exact .unbound (faultsUnbound_of_unbound hu rfl hb)
    | true =>
      obtain ⟨k, u, hq, -, hk, hd, -, hpcnt, hwcnt, -⟩ := acquire_bound Config.extraPollTrials Config.cycForced hb
      rw [run, Config.pollTrials, hq]
      refine .responds (faultsUnbound_of_bound _ hb) ((hd.trans (did_setPh u .converted)).runs ?_ fun h => ?fits)
        (.report rfl rfl rfl (by simp [allowedStatuses, hu]) (.inl rfl))
      case fits => exact ⟨hpcnt ▸ h.1, hwcnt ▸ hk⟩
      refine responsesOf_eq_nil (List.forall_mem_append.2 ⟨isResponse_of_mem_acquireEvents _ s k, ?_⟩)
      simp [Entry.isResponse]

/-- Every command faults for want of a binding or responds, in one of the ways that `Answers` lists. -/
theorem exec_ends (i : Instr) (s : State) : Ends i s (exec i s) := by
  cases i with
  | init hv tv => exact init_ends hv tv s
  | isPresent hv => exact isPresent_ends hv s
  | readRegs hv bv reg len => exact readRegs_ends hv bv reg len s
  | writeRegs hv bv reg len wdata => exact writeRegs_ends hv bv reg len wdata s
  | setMode hv m => exact setter_ends rfl s
  | setCycle hv c => exact setter_ends rfl s
  | isConvDone hv => exact isConvDone_ends hv s
  | getTemp hv => exact getTemp_ends hv s
  | reserved => exact ends_badArgument rfl s

/-! ## What the end of a command says -/

/-- The outcomes of a command: the fault of R193 and no other, or a response. -/
theorem exec_fault_or_next (i : Instr) (s : State) :
    (faultsUnbound i s = true ∧ exec i s = .fault .unbound) ∨
      (faultsUnbound i s = false ∧ ∃ t, exec i s = .next t) := by
  have hends := exec_ends i s
  generalize exec i s = o at hends ⊢
  cases hends with
  | unbound hf => exact .inl ⟨hf, rfl⟩
  | responds hf => exact .inr ⟨hf, _, rfl⟩

section
variable {i : Instr} {s t : State} (h : exec i s = .next t)
include h

/-- The log of a command that responds ends with its one response. -/
theorem added_of_exec : ∃ es, added s t = es ++ [.response t.rsp, .phase .idle] ∧ responsesOf es = [] := by
  have hends := exec_ends i s
  rw [h] at hends
  cases hends with
  | @responds es u _ _ _ _ _ hr => exact ⟨es, by simp [added, hr.log], hr.noResponse⟩

theorem answers_of_exec : Answers i s (eventsOf (added s t)) t.rsp := by
  have hends := exec_ends i s
  rw [h] at hends
  cases hends with
  | @responds es u _ _ _ _ _ hr ha => simpa [added, hr.log, eventsOf, Entry.isEvent] using ha

/-- Every command keeps the invariant. -/
theorem inv_of_exec (hs : s.Inv) : t.Inv := by
  obtain ⟨hbound, -, hfits⟩ := hs
  have hends := exec_ends i s
  rw [h] at hends
  cases hends with
  | responds _ hr => exact ⟨hr.bound hbound, rfl, hr.fits hfits⟩

end

/-! ## The statements about a command -/

/-- Settles O13: the two ends of `exec_ends` exclude each other; under the invariant an available handle is bound. -/
theorem commandsFaultExactlyWhenUnbound : Obligations.CommandsFaultExactlyWhenUnbound := by
  intro i s
  rcases exec_fault_or_next i s with ⟨hf, hexec⟩ | ⟨hf, t, hexec⟩
  · refine ⟨by simp [hexec, hf], by simp [hexec], by simp [hexec], fun hs hi => ?_⟩
    rw [faultsUnbound_of_getTemp hs hi] at hf
    cases hf
  · simp [hexec, hf]

/-- Settles O19: each of the ways to answer gives a status of the table. -/
theorem statusesStayInTheTable : Obligations.StatusesStayInTheTable :=
  fun _ _ _ h => (answers_of_exec h).status_mem

/-- Settles O20: only the argument check gives `ARG_ERR`. -/
theorem argumentErrorsIssueNoEvent : Obligations.ArgumentErrorsIssueNoEvent :=
  fun _ _ _ h => ⟨(answers_of_exec h).argErr_iff, (answers_of_exec h).of_argErr⟩

/-- Settles O21: a failed access gives `XPORT_ERR`, and is the last event of a register command or a setter. -/
theorem transportErrorsEndTheCommand : Obligations.TransportErrorsEndTheCommand :=
  fun _ _ _ h => ⟨(answers_of_exec h).xportErr_iff, (answers_of_exec h).of_xportErr⟩

/-- Settles O22: only a setter's mismatch gives `VERIFY_ERR`. -/
theorem verificationErrorsFollowThreeEvents : Obligations.VerificationErrorsFollowThreeEvents :=
  fun _ _ _ h => ⟨(answers_of_exec h).verifyErr_iff, (answers_of_exec h).of_verifyErr⟩

end Sys2Proof.Machine

/-! Steps and resets (70_reset_and_hazards R210 to R212). `cutShort_spec` says what a reset during a command keeps, and
`step_cases` what a step can do; O9 and O11 are read off them. -/

namespace Sys2Proof.Machine

/-! ## A command cut by a reset -/

section
variable {i : Instr} {s : State} (k : Nat)

theorem cutShort_of_next {t : State} (h : exec i s = .next t) : cutShort i k s = .next (abandon k s t) := by
  simp only [cutShort, h]

theorem cutShort_of_fault {f : Fault} (h : exec i s = .fault f) :
    cutShort i k s = .next (resetBlock (s.setPh (busPhase i))) := by
  simp only [cutShort, h]

/-- Of the events that a command would have logged, the cut keeps the first `k` (R211). -/
theorem length_eventsOf_cutAfter_exec {t : State} (h : exec i s = .next t) :
    (eventsOf (cutAfter k (added s t))).length = min k (eventsOf (added s t)).length := by
  obtain ⟨es, hadd, hes⟩ := added_of_exec h
  have hevs : eventsOf (added s t) = eventsOf es := by simp [hadd, eventsOf, Entry.isEvent]
  rw [hevs, hadd, length_eventsOf_cutAfter k es _ _ hes]

end

/-- What a reset during a command leaves, whether the command would have responded or faulted (R193, R211). -/
theorem cutShort_spec (i : Instr) (k : Nat) (s : State) :
    ∃ u es, cutShort i k s = .next u ∧ u.avail = false ∧ u.bound = false ∧ u.ph = .idle ∧ u.host = s.host ∧
      u.log = s.log ++ es ++ [.reset] ∧ responsesOf es = [] ∧
      u.env = s.env.drop (answeredOf es) ∧ u.answered = s.answered + answeredOf es ∧
      (∀ t, exec i s = .next t →
        es <+: added s t ∧ (eventsOf es).length = min k (eventsOf (added s t)).length) ∧
      ∀ f, exec i s = .fault f → eventsOf es = [] := by
  rcases exec_fault_or_next i s with ⟨-, hexec⟩ | ⟨-, t, hexec⟩
  · exact ⟨_, [.phase (busPhase i)], cutShort_of_fault k hexec, rfl, rfl, rfl, rfl, rfl, rfl, rfl, rfl,
      by simp [hexec], fun _ _ => rfl⟩
  · obtain ⟨ha, hb, hph, hhost, hlog, henv, hans⟩ := abandon_spec k s t
    refine ⟨_, cutAfter k (added s t), cutShort_of_next k hexec, ha, hb, hph, hhost, hlog,
      responsesOf_cutAfter k _, henv, hans, fun t' ht' => ?_, by simp [hexec]⟩
    obtain rfl : t = t' := by rw [hexec] at ht'; cases ht'; rfl
    exact ⟨cutAfter_prefix k _, length_eventsOf_cutAfter_exec k hexec⟩

/-- Whatever the command, the cut ends with a reset of the block. -/
theorem resetBlock_of_cutShort {i : Instr} {k : Nat} {s t : State} (h : cutShort i k s = .next t) :
    ∃ u, t = resetBlock u := by
  rcases exec_fault_or_next i s with ⟨-, hexec⟩ | ⟨-, u, hexec⟩
  · rw [cutShort_of_fault k hexec] at h; cases h; exact ⟨_, rfl⟩
  · rw [cutShort_of_next k hexec] at h; cases h; exact ⟨_, rfl⟩

/-! ## The port and the step -/

theorem runCommand_next {c : Command} {s t : State} (h : runCommand c s = .next t) : ∃ i, exec i s = .next t := by
  unfold runCommand at h
  split at h
  · exact ⟨_, h⟩
  · cases h

theorem runThenReset_of_ok {c : Command} {i : Instr} (h : decode c = .ok i) (k : Nat) (s : State) :
    runThenReset c k s = cutShort i k s := by
  simp only [runThenReset, h]

theorem runThenReset_of_error {c : Command} (h : decode c = .error .wdataLength) (k : Nat) (s : State) :
    runThenReset c k s = .refused .wdataLength := by
  simp only [runThenReset, h]

theorem runThenReset_next {c : Command} {k : Nat} {s t : State} (h : runThenReset c k s = .next t) :
    ∃ u, t = resetBlock u := by
  cases hc : decode c with
  | ok i => rw [runThenReset_of_ok hc] at h; exact resetBlock_of_cutShort h
  | error e => cases e; rw [runThenReset_of_error hc] at h; cases h

theorem step_of_commandThenReset {s : State} {c : Command} {k : Nat} {rest : List HostInput} (hph : s.ph = .idle)
    (hhost : s.host = .commandThenReset c k :: rest) : step s = runThenReset c k (s.setHost rest) := by
  simp only [step, takeInput, hhost, if_pos hph]

/-- A step of an idle block that goes on has waited, has reset the block, or has run a command to its end. -/
theorem step_cases {s t : State} (hph : s.ph = .idle) (h : step s = .next t) :
    t = s ∨ (∃ u, t = resetBlock u) ∨ ∃ i rest, exec i (s.setHost rest) = .next t := by
  cases hhost : s.host with
  | nil => simp only [step, takeInput, hhost, if_pos hph] at h; cases h; exact .inl rfl
  | cons input rest =>
    cases input with
    | reset => simp only [step, takeInput, hhost] at h; cases h; exact .inr (.inl ⟨_, rfl⟩)
    | command c =>
      simp only [step, takeInput, hhost, if_pos hph] at h
      obtain ⟨i, hexec⟩ := runCommand_next h
      exact .inr (.inr ⟨i, rest, hexec⟩)
    | commandThenReset c k =>
      rw [step_of_commandThenReset hph hhost] at h
      exact .inr (.inl (runThenReset_next h))

theorem inv_resetBlock (s : State) : (resetBlock s).Inv := ⟨nofun, rfl, Nat.zero_le _, Nat.zero_le _⟩

/-! ## The statements -/

/-- Settles O9: the step is the cut of the command the port decodes. -/
theorem resetCutsTheCommandShort : Obligations.ResetCutsTheCommandShort := by
  intro s c k rest hph hhost
  rw [step_of_commandThenReset hph hhost]
  refine ⟨fun i hc => ?_, fun hc => runThenReset_of_error hc ..⟩
  rw [runThenReset_of_ok hc]
  exact cutShort_spec i k (s.setHost rest)

/-- Settles O11: waiting changes nothing, a reset sets the invariant up, and every command keeps it. -/
theorem stepKeepsTheInvariant : Obligations.StepKeepsTheInvariant := by
  intro s t hs h
  have ⟨_, hph, _⟩ := hs
  rcases step_cases hph h with rfl | ⟨u, rfl⟩ | ⟨i, rest, hexec⟩
  · exact hs
  · exact inv_resetBlock u
  · exact inv_of_exec hexec hs

end Sys2Proof.Machine

/-! The command word (30_encoding R80 to R88). What each opcode decodes to, the row of the table it selects (`rowOf`),
and the bits it uses (`usedBits`, a function of the opcode alone); O1 to O5 are read off these. -/

namespace Sys2Proof

/-! ## WRITE_REGS and its byte string (R88) -/

theorem wdataCount_of_read {hv bv : Bool} {len : Byte} (h : wdataRead hv bv len = true) :
    wdataCount hv bv len = len.toInt.toNat := if_pos h

theorem decodeWriteRegs_unread {w : CmdWord} (h : wdataRead (hvBit w) (bvBit w) (lenField w) = false)
    (d : List Byte) :
    decodeWriteRegs w d = .ok (.writeRegs (hvBit w) (bvBit w) (regField w) (lenField w) []) := by
  simp [decodeWriteRegs, h]

theorem decodeWriteRegs_read {w : CmdWord} (h : wdataRead (hvBit w) (bvBit w) (lenField w) = true) (d : List Byte) :
    decodeWriteRegs w d =
      if d.length = (lenField w).toInt.toNat then
        .ok (.writeRegs (hvBit w) (bvBit w) (regField w) (lenField w) d)
      else .error .wdataLength := by
  simp [decodeWriteRegs, h, wdataCount_of_read]

theorem wellFormed_of_decodeWriteRegs {w : CmdWord} {d : List Byte} {i : Instr} (h : decodeWriteRegs w d = .ok i) :
    i.wellFormed = true := by
  cases hr : wdataRead (hvBit w) (bvBit w) (lenField w) with
  | false =>
    rw [decodeWriteRegs_unread hr] at h
    cases h
    simp [Instr.wellFormed, wdataCount_of_not_read hr]
  | true =>
    rw [decodeWriteRegs_read hr] at h
    split at h
    next hlen => cases h; simp [Instr.wellFormed, wdataCount_of_read hr, hlen]
    next => cases h

theorem decodeWriteRegs_error_iff (w : CmdWord) (d : List Byte) (e : DecodeError) :
    decodeWriteRegs w d = .error e ↔
      wdataRead (hvBit w) (bvBit w) (lenField w) = true ∧ d.length ≠ (lenField w).toInt.toNat := by
  cases e
  cases hr : wdataRead (hvBit w) (bvBit w) (lenField w) with
  | false => simp [decodeWriteRegs_unread hr]
  | true => rw [decodeWriteRegs_read hr]; split <;> simp [*]

theorem decodeWriteRegs_congr {w w' : CmdWord} (hhv : hvBit w = hvBit w') (hbv : bvBit w = bvBit w')
    (hreg : regField w = regField w') (hlen : lenField w = lenField w') (d : List Byte) :
    decodeWriteRegs w d = decodeWriteRegs w' d := by
  simp only [decodeWriteRegs, hhv, hbv, hreg, hlen]

/-! ## Decoding by opcode (R81) -/

theorem decode_writeRegs {c : Command} (h : opField c.word = 3) : decode c = decodeWriteRegs c.word c.wdata := by
  simp [decode, h]

/-- Every opcode but that of WRITE_REGS gives a command, well-formed, and looks at no byte string (R88). -/
theorem decode_of_ne_three {w : CmdWord} (h : opField w ≠ 3) :
    ∃ i : Instr, i.wellFormed = true ∧ ∀ d, decode ⟨w, d⟩ = .ok i := by
  have hn : (opField w).toNat ≠ 3 := fun hn => h (BitVec.eq_of_toNat_eq hn)
  simp only [decode]
  split
  case h_4 h3 => exact absurd h3 hn
  all_goals exact ⟨_, rfl, fun _ => rfl⟩

theorem decode_reserved {w : CmdWord} (h : 8 ≤ (opField w).toNat) (d : List Byte) :
    decode ⟨w, d⟩ = .ok .reserved := by
  simp only [decode]
  split
  case h_9 => rfl
  all_goals omega

/-- Settles O1: every field of a packed word is read back, and a byte string that is not read is empty. -/
theorem decodeEncodeRoundTrip : Obligations.DecodeEncodeRoundTrip := by
  intro i hi
  cases i with
  | writeRegs hv bv reg len wdata =>
    have hlen : wdata.length = wdataCount hv bv len := by simpa [Instr.wellFormed] using hi
    have hop : decode (encode (.writeRegs hv bv reg len wdata)) =
        decodeWriteRegs (pack 3 hv bv false reg len 0) wdata := by simp [decode, encode, Instr.opcode]
    rw [hop]
    cases hr : wdataRead hv bv len with
    | true =>
      rw [decodeWriteRegs_read (by simpa using hr)]
      simpa [wdataCount_of_read hr] using hlen
    | false =>
      obtain rfl : wdata = [] := by simpa [wdataCount_of_not_read hr] using hlen
      rw [decodeWriteRegs_unread (by simpa using hr)]
      simp
  | init | isPresent | readRegs | setMode | setCycle | isConvDone | getTemp | reserved =>
    simp [decode, encode, Instr.opcode]

/-- Settles O2: only WRITE_REGS looks at its byte string, and it takes a string that it does not read as empty. -/
theorem decodeRejectsOnlyWrongWdata : Obligations.DecodeRejectsOnlyWrongWdata := by
  constructor
  · intro c i h
    by_cases hop : opField c.word = 3
    · rw [decode_writeRegs hop] at h
      exact wellFormed_of_decodeWriteRegs h
    · obtain ⟨i', hwf, hdec⟩ := decode_of_ne_three hop
      rw [hdec] at h
      cases h
      exact hwf
  · intro c e
    by_cases hop : opField c.word = 3
    · simp [decode_writeRegs hop, hop, decodeWriteRegs_error_iff]
    · obtain ⟨i, -, hdec⟩ := decode_of_ne_three hop
      exact iff_of_false (by simp [hdec]) fun h => hop h.1

/-! ## The bits a command uses (R81, R86) -/

theorem usedBits_eq (w : CmdWord) : usedBits w = usedBits (opField w ++ 0#28) := by
  have hop : opField (opField w ++ 0#28) = opField w := BitVec.extractLsb'_append_eq_left
  simp only [usedBits, hop]

/-- What holds of the used bits of each of the sixteen opcodes holds of those of every word. -/
theorem usedBits_of_forall_op {P : BitVec 4 → CmdWord → Prop} (h : ∀ op, P op (usedBits (op ++ 0#28)))
    (w : CmdWord) : P (opField w) (usedBits w) :=
  usedBits_eq w ▸ h (opField w)

theorem usedBits_of_reserved {w : CmdWord} (h : 8 ≤ (opField w).toNat) : usedBits w = 0x80000000 :=
  usedBits_of_forall_op (P := fun op m => 8 ≤ op.toNat → m = 0x80000000) (by decide) w h

/-- The eight commands use all of `OP`, and `HV`. -/
theorem usedBits_op_hv {w : CmdWord} (h : ¬ 8 ≤ (opField w).toNat) :
    (usedBits w).extractLsb' 28 4 = .allOnes 4 ∧ (usedBits w).getLsbD 27 = true :=
  usedBits_of_forall_op
    (P := fun op m => ¬ 8 ≤ op.toNat → m.extractLsb' 28 4 = .allOnes 4 ∧ m.getLsbD 27 = true) (by decide) w h

theorem reserved_iff_getLsbD (w : CmdWord) : 8 ≤ (opField w).toNat ↔ w.getLsbD 31 = true := by
  have hmsb : (opField w).msb = w.getLsbD 31 := by simp [opField, BitVec.msb, BitVec.getMsbD]
  rw [← hmsb, BitVec.msb_eq_decide, decide_eq_true_iff]

theorem extractLsb'_eq_of_and_eq {w w' m : CmdWord} (h : w &&& m = w' &&& m) {start len : Nat}
    (hm : m.extractLsb' start len = .allOnes len) : w.extractLsb' start len = w'.extractLsb' start len := by
  simpa [BitVec.extractLsb'_and, hm] using congrArg (BitVec.extractLsb' start len) h

theorem getLsbD_eq_of_and_eq {n : Nat} {w w' m : BitVec n} (h : w &&& m = w' &&& m) {j : Nat}
    (hm : m.getLsbD j = true) : w.getLsbD j = w'.getLsbD j := by
  simpa [hm] using congrArg (BitVec.getLsbD · j) h

/-- Words that agree on the used bits agree on `OP` (of a reserved opcode, on its top bit) and on each field that the
command reads, so they decode alike. -/
theorem decode_eq_of_and_usedBits_eq {w w' : CmdWord} (h : w &&& usedBits w = w' &&& usedBits w) (d : List Byte) :
    decode ⟨w, d⟩ = decode ⟨w', d⟩ := by
  by_cases hres : 8 ≤ (opField w).toNat
  · have htop : w.getLsbD 31 = w'.getLsbD 31 := getLsbD_eq_of_and_eq h (by rw [usedBits_of_reserved hres]; decide)
    have hres' : 8 ≤ (opField w').toNat := by rwa [reserved_iff_getLsbD, ← htop, ← reserved_iff_getLsbD]
    rw [decode_reserved hres, decode_reserved hres']
  · obtain ⟨hopUsed, hhvUsed⟩ := usedBits_op_hv hres
    have hop : opField w = opField w' := extractLsb'_eq_of_and_eq h hopUsed
    have hhv : hvBit w = hvBit w' := getLsbD_eq_of_and_eq h hhvUsed
    have bvEq (hm : (usedBits w).getLsbD 26 = true) : bvBit w = bvBit w' := getLsbD_eq_of_and_eq h hm
    have tvEq (hm : (usedBits w).getLsbD 25 = true) : tvBit w = tvBit w' := getLsbD_eq_of_and_eq h hm
    have regEq (hm : (usedBits w).extractLsb' 16 8 = .allOnes 8) : regField w = regField w' :=
      extractLsb'_eq_of_and_eq h hm
    have lenEq (hm : (usedBits w).extractLsb' 8 8 = .allOnes 8) : lenField w = lenField w' :=
      extractLsb'_eq_of_and_eq h hm
    have modeEq (hm : (usedBits w).extractLsb' 0 2 = .allOnes 2) : modeField w = modeField w' :=
      extractLsb'_eq_of_and_eq h hm
    have cycEq (hm : (usedBits w).extractLsb' 0 3 = .allOnes 3) : cycField w = cycField w' :=
      extractLsb'_eq_of_and_eq h hm
    simp only [decode, ← hop]
    split
    case h_1 hk => rw [hhv, tvEq (by simp [usedBits, hk])]
    case h_2 | h_7 | h_8 => rw [hhv]
    case h_3 hk =>
      rw [hhv, bvEq (by simp [usedBits, hk]), regEq (by simp [usedBits, hk]), lenEq (by simp [usedBits, hk])]
    case h_4 hk =>
      exact decodeWriteRegs_congr hhv (bvEq (by simp [usedBits, hk])) (regEq (by simp [usedBits, hk]))
        (lenEq (by simp [usedBits, hk])) d
    case h_5 hk => rw [hhv, modeEq (by simp [usedBits, hk])]
    case h_6 hk => rw [hhv, cycEq (by simp [usedBits, hk])]
    case h_9 => rfl

theorem pack_and_append (op x : BitVec 4) (hv bv tv : Bool) (a b c z : BitVec 1) (reg len arg r l g : Byte) :
    pack op hv bv tv reg len arg &&& (x ++ a ++ b ++ c ++ z ++ r ++ l ++ g) =
      (op &&& x) ++ (BitVec.ofBool hv &&& a) ++ (BitVec.ofBool bv &&& b) ++ (BitVec.ofBool tv &&& c) ++ (0#1 &&& z) ++
        (reg &&& r) ++ (len &&& l) ++ (arg &&& g) := by
  simp only [← BitVec.and_append]
  rfl

/-- A packed word has every ignored bit 0 when each of its fields has, the ignored bits of its opcode being given field
by field. -/
theorem pack_and_ignored {op : BitVec 4} {a b c z : BitVec 1} {r l g : Byte}
    (hm : ~~~usedBits (op ++ 0#28) = 0#4 ++ a ++ b ++ c ++ z ++ r ++ l ++ g) {hv bv tv : Bool} {reg len arg : Byte}
    (hhv : BitVec.ofBool hv &&& a = 0) (hbv : BitVec.ofBool bv &&& b = 0) (htv : BitVec.ofBool tv &&& c = 0)
    (hreg : reg &&& r = 0) (hlen : len &&& l = 0) (harg : arg &&& g = 0) :
    pack op hv bv tv reg len arg &&& ~~~usedBits (pack op hv bv tv reg len arg) = 0 := by
  rw [usedBits_eq, opField_pack, hm, pack_and_append, hhv, hbv, htv, hreg, hlen, harg]
  simp

/-- The canonical word is canonical: what its command does not use is 0 (R86, R98). -/
theorem encode_and_ignored (i : Instr) : (encode i).word &&& ~~~(usedBits (encode i).word) = 0 := by
  have handleOnly (op : BitVec 4) (h : op ∈ [1#4, 6#4, 7#4]) :
      ~~~usedBits (op ++ 0#28) = 0#4 ++ 0#1 ++ 1#1 ++ 1#1 ++ 1#1 ++ 0xFF#8 ++ 0xFF#8 ++ 0xFF#8 := by
    revert op; decide
  have access (op : BitVec 4) (h : op ∈ [2#4, 3#4]) :
      ~~~usedBits (op ++ 0#28) = 0#4 ++ 0#1 ++ 0#1 ++ 1#1 ++ 1#1 ++ 0#8 ++ 0#8 ++ 0xFF#8 := by
    revert op; decide
  cases i with
  | init hv tv =>
    have hm : ~~~usedBits (0#4 ++ 0#28) = 0#4 ++ 0#1 ++ 1#1 ++ 0#1 ++ 1#1 ++ 0xFF#8 ++ 0xFF#8 ++ 0xFF#8 := by decide
    exact pack_and_ignored hm (by simp) rfl (by simp) rfl rfl rfl
  | isPresent hv => exact pack_and_ignored (handleOnly 1 (by decide)) (by simp) rfl rfl rfl rfl rfl
  | isConvDone hv => exact pack_and_ignored (handleOnly 6 (by decide)) (by simp) rfl rfl rfl rfl rfl
  | getTemp hv => exact pack_and_ignored (handleOnly 7 (by decide)) (by simp) rfl rfl rfl rfl rfl
  | readRegs hv bv reg len =>
    exact pack_and_ignored (access 2 (by decide)) (by simp) (by simp) rfl (by simp) (by simp) rfl
  | writeRegs hv bv reg len wdata =>
    exact pack_and_ignored (access 3 (by decide)) (by simp) (by simp) rfl (by simp) (by simp) rfl
  | setMode hv m =>
    have hm : ~~~usedBits (4#4 ++ 0#28) = 0#4 ++ 0#1 ++ 1#1 ++ 1#1 ++ 1#1 ++ 0xFF#8 ++ 0xFF#8 ++ 0xFC#8 := by decide
    exact pack_and_ignored hm (by simp) rfl rfl rfl rfl (by cases m <;> rfl)
  | setCycle hv c =>
    have hm : ~~~usedBits (5#4 ++ 0#28) = 0#4 ++ 0#1 ++ 1#1 ++ 1#1 ++ 1#1 ++ 0xFF#8 ++ 0xFF#8 ++ 0xF8#8 := by decide
    exact pack_and_ignored hm (by simp) rfl rfl rfl rfl (by revert c; decide)
  | reserved => decide

/-- Settles O3: the decoder reads used bits only, and the encoder sets no other. -/
theorem ignoredBitsChangeNothing : Obligations.IgnoredBitsChangeNothing := by
  refine ⟨fun w w' d h => decode_eq_of_and_usedBits_eq h d, fun w d d' hop => ?_, encode_and_ignored⟩
  obtain ⟨i, -, hdec⟩ := decode_of_ne_three hop
  rw [hdec, hdec]

/-! ## The opcode table (R81, R87) -/

/-- The row of the table that an opcode selects: the reserved range shares the last one. -/
def rowOf (op : BitVec 4) : OpcodeRow := opcodeRows[min op.toNat 8]'(by simp [opcodeRows])

/-- No row looks below `OP`, and of the rows exactly `rowOf` has an opcode's words. -/
theorem has_iff_eq_rowOf {r : OpcodeRow} (hr : r ∈ opcodeRows) (w : CmdWord) :
    r.has w = true ↔ r = rowOf (opField w) := by
  have hmask : ∀ r ∈ opcodeRows, r.mask = r.mask.extractLsb' 28 4 ++ 0#28 := by decide
  have hrow : ∀ r ∈ opcodeRows, ∀ op : BitVec 4,
      (op &&& r.mask.extractLsb' 28 4) ++ 0#28 = r.pattern ↔ r = rowOf op := by decide
  have hword : w = opField w ++ w.extractLsb' 0 28 := (BitVec.extractLsb'_append_extractLsb' (w := 4) (len := 28)).symm
  rw [← hrow r hr, OpcodeRow.has, beq_iff_eq]
  conv_lhs => rw [hword, hmask r hr, BitVec.and_append, BitVec.and_zero]

theorem mnemonic_of_decodeWriteRegs {w : CmdWord} {d : List Byte} {i : Instr} (h : decodeWriteRegs w d = .ok i) :
    i.mnemonic = "WRITE_REGS" := by
  unfold decodeWriteRegs at h
  split at h
  · split at h
    · cases h; rfl
    · cases h
  · cases h; rfl

theorem mnemonic_of_decode {w : CmdWord} {d : List Byte} {i : Instr} (h : decode ⟨w, d⟩ = .ok i) :
    i.mnemonic = (rowOf (opField w)).mnemonic := by
  by_cases hres : 8 ≤ (opField w).toNat
  · rw [decode_reserved hres] at h
    cases h
    simp [rowOf, hres, opcodeRows, Instr.mnemonic]
  · simp only [decode] at h
    split at h
    case h_4 hop => rw [mnemonic_of_decodeWriteRegs h]; simp [rowOf, hop, opcodeRows]
    case h_9 h0 h1 h2 h3 h4 h5 h6 h7 =>
      have hlt : (opField w).toNat < 8 := Nat.lt_of_not_le hres
      interval_cases (opField w).toNat <;> contradiction
    all_goals
      rename_i hop
      cases h
      simp [rowOf, hop, opcodeRows, Instr.mnemonic]

/-- Settles O4: the row is that of the word's opcode. -/
theorem opcodeRowsPartitionTheWords : Obligations.OpcodeRowsPartitionTheWords := by
  intro w
  have hmem : rowOf (opField w) ∈ opcodeRows := List.getElem_mem _
  exact ⟨rowOf (opField w), hmem, (has_iff_eq_rowOf hmem w).2 rfl, fun r hr => (has_iff_eq_rowOf hr w).1,
    fun d i h => mnemonic_of_decode h⟩

/-- Settles O5: each word is evaluated. -/
theorem sampleWordsDecode : Obligations.SampleWordsDecode := by
  unfold Obligations.SampleWordsDecode
  decide

end Sys2Proof

/-! The codec and the converter (30_encoding R90 to R96, 44_temperature R167). `joinBytes` is an append of the two
bytes; `f32Value_pattern` says what a pattern given by its three fields stands for; O46 to O49 and O51 are read off
these. -/

namespace Sys2Proof.Machine

/-! ## Fields and bytes -/

/-- Settles O46: the masks and the four and eight codes are evaluated. -/
theorem fieldConstantsFitTheirFields : Obligations.FieldConstantsFitTheirFields := by
  refine ⟨rfl, rfl, rfl, fun m => ?_, fun c => ?_, rfl, rfl⟩
  · cases m <;> rfl
  · revert c; decide

theorem applyField_and_cur (cur mask want : Word) : applyField cur mask want &&& cur = cur := by
  ext j hj
  cases h : cur[j] <;> simp [applyField, h]

/-- Settles O47: an OR clears no bit, and what it sets lies inside the mask. -/
theorem applyFieldOnlySetsBits : Obligations.ApplyFieldOnlySetsBits :=
  ⟨fun cur mask want => ⟨applyField_and_cur cur mask want, applyField_and_not_mask cur mask want⟩,
    isReady_eq_getLsbD⟩

theorem joinBytes_eq_append (b0 b1 : Byte) : joinBytes b0 b1 = b0 ++ b1 :=
  BitVec.setWidth_append_eq_shiftLeft_setWidth_or.symm.trans (BitVec.setWidth_eq _)

/-- Settles O48: the high byte is the upper part of the append, the low byte the lower. -/
theorem bytesJoinBigEndian : Obligations.BytesJoinBigEndian := by
  refine ⟨fun v => ?_, fun b0 b1 => ⟨?_, ?_, ?_⟩⟩
  · rw [joinBytes_eq_append]
    exact BitVec.extractLsb'_append_extractLsb' (w := 8) (len := 8)
  · rw [joinBytes_eq_append]
    exact BitVec.extractLsb'_append_eq_left
  · rw [joinBytes_eq_append]
    exact BitVec.extractLsb'_append_eq_right
  · rw [joinBytes_eq_append, BitVec.toNat_append, ← Nat.shiftLeft_add_eq_or_of_lt b1.isLt, Nat.shiftLeft_eq,
      Nat.mul_comm]

/-! ## binary32 -/

/-- The number that a pattern stands for, given its sign bit, its exponent field and its fraction. -/
theorem f32Value_pattern {s e m : Nat} (hs : s < 2) (he0 : e ≠ 0) (he : e < 256) (hm : m < 2 ^ 23) :
    f32Value (BitVec.ofNat 32 (s * 2 ^ 31 + e * 2 ^ 23 + m)) =
      (if s = 1 then -1 else 1) * ((2 ^ 23 + m : Nat) : Rat) * 2 ^ e / 2 ^ 150 := by
  have sign : (BitVec.ofNat 32 (s * 2 ^ 31 + e * 2 ^ 23 + m)).getLsbD 31 = decide (s = 1) := by
    have bit : (s * 2 ^ 31 + e * 2 ^ 23 + m) / 2 ^ 31 % 2 = s := by omega
    rw [BitVec.getLsbD_ofNat, Nat.testBit_eq_decide_div_mod_eq, bit]
    rfl
  have exponent : ((BitVec.ofNat 32 (s * 2 ^ 31 + e * 2 ^ 23 + m)).extractLsb' 23 8).toNat = e := by
    rw [BitVec.extractLsb'_toNat, BitVec.toNat_ofNat, Nat.shiftRight_eq_div_pow]
    omega
  have fraction : ((BitVec.ofNat 32 (s * 2 ^ 31 + e * 2 ^ 23 + m)).extractLsb' 0 23).toNat = m := by
    rw [BitVec.extractLsb'_toNat, BitVec.toNat_ofNat, Nat.shiftRight_zero]
    omega
  simp only [f32Value, sign, exponent, fraction, if_neg he0, decide_eq_true_eq]

/-- With the implicit bit, the fraction that R95 computes is the number itself, scaled. -/
theorem significand_eq {a p : Nat} (h : 2 ^ p ≤ a) (hp : p ≤ 23) :
    2 ^ 23 + (a - 2 ^ p) * 2 ^ (23 - p) = a * 2 ^ (23 - p) := by
  have scale : 2 ^ 23 = 2 ^ p * 2 ^ (23 - p) := by rw [← Nat.pow_add]; congr 1; omega
  rw [scale, ← Nat.add_mul]
  congr 1
  omega

/-- The encoder of R95 on a number that is not 0: its sign, its magnitude and the position of the leading bit. -/
theorem encodeF32_of_ne {raw : Int} (h0 : raw ≠ 0) :
    encodeF32 raw = BitVec.ofNat 32 ((if raw < 0 then 1 else 0) * 2 ^ 31 + (120 + Nat.log2 raw.natAbs) * 2 ^ 23 +
      (raw.natAbs - 2 ^ Nat.log2 raw.natAbs) * 2 ^ (23 - Nat.log2 raw.natAbs)) := if_neg h0

/-- The sign bit of R95 with the magnitude is the number. -/
theorem sign_mul_natAbs (raw : Int) :
    ((if (if raw < 0 then 1 else 0) = 1 then -1 else 1) : Rat) * (raw.natAbs : Rat) = raw := by
  rw [Nat.cast_natAbs]
  by_cases h : raw < 0
  · simp [h, abs_of_neg h]
  · simp [h, abs_of_nonneg (not_lt.1 h)]

theorem f32Value_encodeF32 {raw : Int} (h0 : raw ≠ 0) (ha : raw.natAbs < 2 ^ 16) :
    f32Value (encodeF32 raw) = (raw : Rat) / 128 := by
  have hne : raw.natAbs ≠ 0 := Int.natAbs_ne_zero.2 h0
  have hle : 2 ^ Nat.log2 raw.natAbs ≤ raw.natAbs := Nat.log2_self_le hne
  have hlt : raw.natAbs < 2 ^ (Nat.log2 raw.natAbs + 1) := Nat.lt_log2_self
  have hlog : Nat.log2 raw.natAbs < 16 := (Nat.log2_lt hne).2 ha
  rw [encodeF32_of_ne h0]
  generalize Nat.log2 raw.natAbs = p at hle hlt hlog ⊢
  have hsig := significand_eq hle (by omega)
  have hfrac : raw.natAbs * 2 ^ (23 - p) < 2 ^ 24 := by
    calc raw.natAbs * 2 ^ (23 - p) < 2 ^ (p + 1) * 2 ^ (23 - p) := Nat.mul_lt_mul_of_pos_right hlt (by positivity)
      _ = 2 ^ 24 := by rw [← Nat.pow_add]; congr 1; omega
  have hpow : (2 : Rat) ^ (23 - p) * 2 ^ (120 + p) = 2 ^ 143 := by
    rw [← pow_add]; congr 1; omega
  rw [f32Value_pattern (by split <;> decide) (by omega) (by omega) (by omega), hsig]
  push_cast
  calc _ = ((if (if raw < 0 then 1 else 0) = 1 then -1 else 1) : Rat) * (raw.natAbs : Rat) *
        (2 ^ (23 - p) * 2 ^ (120 + p)) / 2 ^ 150 := by ring
    _ = raw / 128 := by rw [sign_mul_natAbs, hpow]; ring

/-- The pattern of -0.0 stands for 0. -/
theorem f32Value_negZero : f32Value 0x80000000 = 0 := by
  simp [f32Value]

/-- Settles O49: 0 by evaluation, any other sample by its sign and magnitude; -0.0 stands for 0, and a sample that
stands for 0 is 0, whose pattern is +0.0. -/
theorem converterIsExact : Obligations.ConverterIsExact := by
  intro raw
  by_cases h0 : raw.toInt = 0
  · have hpattern : tempF32 raw = 0 := if_pos h0
    refine ⟨?_, rfl, ?_⟩
    · rw [hpattern, h0]; simp [f32Value]
    · rw [hpattern]; decide
  · have hrange : raw.toInt.natAbs < 2 ^ 16 := by
      have hlo := BitVec.le_toInt raw
      have hhi := BitVec.toInt_lt (x := raw)
      omega
    have hvalue : f32Value (tempF32 raw) = (raw.toInt : Rat) / 128 := f32Value_encodeF32 h0 hrange
    refine ⟨hvalue, rfl, fun hneg => h0 ?_⟩
    rw [hneg, f32Value_negZero] at hvalue
    have hz : (raw.toInt : Rat) = 0 := by linarith
    exact_mod_cast hz

/-- Settles O51: the pattern is the encoding of -32640, whose value the converter's exactness gives. -/
theorem sentinelIsMinus255 : Obligations.SentinelIsMinus255 := by
  have hint : (0x8080 : Word).toInt = -32640 := by decide
  have hpattern : encodeF32 (-32640) = 0xC37F0000 := by decide
  refine ⟨?_, ?_, hint, hpattern, rfl, rfl⟩
  · rw [← hpattern, f32Value_encodeF32 (by decide) (by decide)]
    norm_num
  · rw [q87Value, hint]
    norm_num

end Sys2Proof.Machine

/-! The moves of a step (00_scope R12, 70_reset_and_hazards R210), one lemma per host input; O6 to O8 and O10 are read
off them. -/

namespace Sys2Proof.Machine

section
variable {s : State} {rest : List HostInput}

theorem step_of_reset (hhost : s.host = .reset :: rest) : step s = .next (resetBlock (s.setHost rest)) := by
  simp only [step, takeInput, hhost]

theorem step_of_command {c : Command} (hph : s.ph = .idle) (hhost : s.host = .command c :: rest) :
    step s = runCommand c (s.setHost rest) := by
  simp only [step, takeInput, hhost, if_pos hph]

theorem step_of_no_input (hph : s.ph = .idle) (hhost : s.host = []) : step s = .next s := by
  simp only [step, takeInput, hhost, if_pos hph]

theorem step_of_busy (hph : s.ph ≠ .idle) (hreset : ∀ rest, s.host ≠ .reset :: rest) : step s = .fault .busy := by
  cases hhost : s.host with
  | nil => simp only [step, takeInput, hhost, if_neg hph]
  | cons input rest =>
    cases input with
    | reset => exact absurd hhost (hreset rest)
    | command | commandThenReset => simp only [step, takeInput, hhost, if_neg hph]

end

theorem runCommand_of_ok {c : Command} {i : Instr} (h : decode c = .ok i) (s : State) : runCommand c s = exec i s := by
  simp only [runCommand, h]

theorem runCommand_of_error {c : Command} (h : decode c = .error .wdataLength) (s : State) :
    runCommand c s = .refused .wdataLength := by
  simp only [runCommand, h]

/-- Settles O6: a block without input waits, and a reset sets the block's own registers only. -/
theorem resetLeavesTheBlockWaiting : Obligations.ResetLeavesTheBlockWaiting :=
  ⟨rfl, rfl, rfl, step_of_no_input rfl rfl, fun _ _ hhost =>
    ⟨_, step_of_reset hhost, rfl, rfl, rfl, rfl, rfl, rfl, rfl⟩⟩

/-- Settles O7: the step of an idle block is the run of the command it takes, which the decoder decides. -/
theorem stepRunsTheOfferedCommand : Obligations.StepRunsTheOfferedCommand := by
  refine ⟨fun s c rest i hph hhost hc => ?_, fun s c rest hph hhost hc => ?_, fun _ => step_of_no_input⟩
  · rw [step_of_command hph hhost, runCommand_of_ok hc]
  · rw [step_of_command hph hhost, runCommand_of_error hc]

/-- Settles O8: whatever else is offered, the port of a busy block has no move. -/
theorem busyPortAcceptsNothing : Obligations.BusyPortAcceptsNothing := fun _ => step_of_busy

/-- Settles O10: nothing is available, and both counters are 0. -/
theorem invariantHoldsAtReset : Obligations.InvariantHoldsAtReset :=
  ⟨nofun, rfl, Nat.zero_le _, Nat.zero_le _⟩

end Sys2Proof.Machine

/-! What each command did, from its outcome (00_scope R6, R10, R12, R25). `Ran es s t` says that a command which logged
`es` and then responded went from `s` to `t`; there is one inversion lemma per kind of command, which names `es` and the
working registers left. `exec_ranAs` gathers what holds of all; O12 and O14 to O16 are read off it, and the frames O27,
O31, O35, O40 and O44 further down off the inversion lemmas. -/

namespace Sys2Proof.Machine

/-! ## A command that responded -/

/-- From `s` to `t` a command logged `es`, using one answer per answered event, then gave its response. -/
structure Ran (es : List Entry) (s t : State) : Prop where
  host : t.host = s.host
  ph : t.ph = .idle
  log : t.log = s.log ++ es ++ [.response t.rsp, .phase .idle]
  env : t.env = s.env.drop (answeredOf es)
  answered : t.answered = s.answered + answeredOf es
  draws : s.draws < t.draws

/-- `avail` and `bound` are as before. -/
def Kept (s t : State) : Prop := t.avail = s.avail ∧ t.bound = s.bound

theorem Did.ran {es : List Entry} {s u : State} (h : Did es s u) (hdr : s.draws ≤ u.draws) (st : Status)
    (flag : Option Bool) (temp : Option (BitVec 32 × Word)) (rdata : Option (List Byte)) :
    Ran es s (finish st flag temp rdata u) :=
  ⟨h.host, rfl, by simp [h.log], h.env, h.answered, Nat.lt_succ_of_le hdr⟩

section
variable {es : List Entry} {s t : State} (h : Ran es s t)
include h

theorem Ran.added : added s t = es ++ [.response t.rsp, .phase .idle] := by
  simp [Machine.added, h.log]

theorem Ran.answeredOf_added : answeredOf (Machine.added s t) = answeredOf es := by
  simp [h.added, answeredOf_append, Entry.isAnswered]

theorem Ran.commandFrame : commandFrame s t :=
  ⟨h.host, by rw [h.added, h.log, List.append_assoc], by rw [h.answeredOf_added, h.env],
    by rw [h.answeredOf_added, h.answered]⟩

/-- A property that only a transport event can lack holds of all a command logged when it holds of its events. -/
theorem Ran.forall_mem_added {p : Entry → Prop} (hes : ∀ e ∈ es, p e) (hrsp : p (.response t.rsp))
    (hidle : p (.phase .idle)) : ∀ e ∈ Machine.added s t, p e := by
  rw [h.added, List.forall_mem_append]
  exact ⟨hes, by simp [hrsp, hidle]⟩

end

/-! ## The answers in a log (R10, R64) -/

theorem State.skip_skip (s : State) (j k : Nat) : (s.skip j).skip k = s.skip (j + k) := by
  simp [State.skip, List.drop_drop, Nat.add_assoc]

theorem okAt_skip (s : State) (j k : Nat) : okAt (s.skip j) k = okAt s (j + k) := by
  simp [okAt, State.skip_skip]

theorem readAt_skip (s : State) (j k n : Nat) : readAt (s.skip j) k n = readAt s (j + k) n := by
  simp [readAt, okAt_skip, bytesAt, State.skip_skip]

theorem answeredBy_skip (e : Entry) (s : State) (j k : Nat) : e.answeredBy (s.skip j) k = e.answeredBy s (j + k) := by
  cases e <;> simp [Entry.answeredBy, okAt_skip, readAt_skip]

/-- The answered events of a log carry the environment's answers from number `k` to come on, in order. -/
def AnsweredFrom (s : State) : Nat → List Entry → Prop
  | _, [] => True
  | k, e :: es => if e.isAnswered then e.answeredBy s k ∧ AnsweredFrom s (k + 1) es else AnsweredFrom s k es

@[simp] theorem answeredFrom_nil (s : State) (k : Nat) : AnsweredFrom s k [] := trivial

theorem answeredFrom_cons_of_unanswered {e : Entry} (he : e.isAnswered = false) (s : State) (k : Nat)
    (es : List Entry) : AnsweredFrom s k (e :: es) ↔ AnsweredFrom s k es := by
  simp [AnsweredFrom, he]

theorem answeredFrom_cons_of_answered {e : Entry} (he : e.isAnswered = true) (s : State) (k : Nat)
    (es : List Entry) : AnsweredFrom s k (e :: es) ↔ e.answeredBy s k ∧ AnsweredFrom s (k + 1) es := by
  simp [AnsweredFrom, he]

theorem answeredFrom_append (s : State) (k : Nat) (es fs : List Entry) :
    AnsweredFrom s k (es ++ fs) ↔ AnsweredFrom s k es ∧ AnsweredFrom s (k + answeredOf es) fs := by
  induction es generalizing k with
  | nil => simp
  | cons e es ih =>
    cases he : e.isAnswered with
    | true =>
      simp only [List.cons_append, answeredFrom_cons_of_answered he, ih, answeredOf_cons, he, if_true, and_assoc,
        Nat.add_assoc, Nat.add_comm 1]
    | false => simp [answeredFrom_cons_of_unanswered he, ih, he]

theorem answeredFrom_skip (s : State) (j k : Nat) (es : List Entry) :
    AnsweredFrom (s.skip j) k es ↔ AnsweredFrom s (j + k) es := by
  induction es generalizing k with
  | nil => simp
  | cons e es ih => simp only [AnsweredFrom, answeredBy_skip, ih, Nat.add_assoc]

theorem answeredFrom_intersperse {sep : Entry} (hsep : sep.isAnswered = false) (s : State) (k : Nat)
    (es : List Entry) : AnsweredFrom s k (es.intersperse sep) ↔ AnsweredFrom s k es := by
  induction es using List.twoStepInduction generalizing k with
  | nil | singleton => rfl
  | cons_cons e f es _ ih =>
    rw [List.intersperse_cons_cons]
    simp only [AnsweredFrom, hsep, Bool.false_eq_true, if_false] at ih ⊢
    simp only [ih]

/-- One event per number, each with the answer of that number. -/
theorem answeredFrom_map_range {s : State} {f : Nat → Entry} (hf : ∀ j, (f j).isAnswered = true)
    (hans : ∀ j, (f j).answeredBy s j) (n : Nat) : AnsweredFrom s 0 ((List.range n).map f) := by
  have hcount (n : Nat) : answeredOf ((List.range n).map f) = n := by
    simp [answeredOf, List.countP_map, Function.comp_def, hf]
  induction n with
  | zero => trivial
  | succ n ih =>
    simp only [List.range_succ, List.map_append, answeredFrom_append, ih, hcount, Nat.zero_add, true_and]
    exact (answeredFrom_cons_of_answered (hf n) ..).2 ⟨hans n, trivial⟩

theorem AnsweredFrom.answeredBy_of_getElem? {s : State} {k : Nat} {es : List Entry} (h : AnsweredFrom s k es) :
    ∀ (j : Nat) (e : Entry), (es.filter Entry.isAnswered)[j]? = some e → e.answeredBy s (k + j) := by
  induction es generalizing k with
  | nil => simp
  | cons e es ih =>
    intro j x hx
    cases he : e.isAnswered with
    | false =>
      rw [List.filter_cons_of_neg (by simp [he])] at hx
      exact ih ((answeredFrom_cons_of_unanswered he ..).1 h) j x hx
    | true =>
      rw [List.filter_cons_of_pos he] at hx
      obtain ⟨hhead, htail⟩ := (answeredFrom_cons_of_answered he ..).1 h
      cases j with
      | zero => cases hx; exact hhead
      | succ j => rw [Nat.add_comm j, ← Nat.add_assoc]; exact ih htail j x hx

theorem answeredFrom_verifyRun (mask want new : Word) (s : State) (k : Nat) :
    AnsweredFrom s k (verifyRun mask want new s k).2 := by
  cases hw : okAt s k with
  | false => simp [verifyRun, hw, configWrite, AnsweredFrom, Entry.isAnswered, Entry.answeredBy]
  | true =>
    cases hr : okAt s (k + 1) with
    | false =>
      simp [verifyRun, hw, hr, configWrite, configRead, AnsweredFrom, Entry.isAnswered, Entry.answeredBy, readAt_fail]
    | true => simp [verifyRun, hw, hr, configWrite, configRead, AnsweredFrom, Entry.isAnswered, Entry.answeredBy]

theorem answeredFrom_configRead (s : State) (k : Nat) (es : List Entry) :
    AnsweredFrom s k (configRead (readAt s k 2) :: es) ↔ AnsweredFrom s (k + 1) es := by
  have hread : (configRead (readAt s k 2)).answeredBy s k := rfl
  simp only [answeredFrom_cons_of_answered (e := configRead (readAt s k 2)) rfl, hread, true_and]

theorem answeredFrom_setterRun (mask want : Word) (s : State) : AnsweredFrom s 0 (setterRun mask want s).2 := by
  cases h0 : okAt s 0 with
  | false =>
    rw [setterRun_of_fail h0, ← readAt_fail h0 2, answeredFrom_configRead]
    trivial
  | true =>
    by_cases hq : wordAt s 0 &&& mask = want
    · rw [setterRun_of_eq h0 hq, answeredFrom_configRead]; trivial
    · rw [setterRun_of_ne h0 hq, answeredFrom_configRead]; exact answeredFrom_verifyRun ..

theorem answeredFrom_pollEvents (s : State) (k : Nat) : AnsweredFrom s 0 (pollEvents s k) :=
  (answeredFrom_intersperse rfl ..).2
    (answeredFrom_map_range (f := fun j => configRead (readAt s j 2)) (fun _ => rfl) (fun _ => rfl) k)

theorem answeredFrom_acquireEvents (cyc : BitVec 3) (s : State) (k : Nat) :
    AnsweredFrom s 0 (acquireEvents cyc s k) := by
  have phase (p : Phase) (j : Nat) (es : List Entry) : AnsweredFrom s j (.phase p :: es) ↔ AnsweredFrom s j es :=
    answeredFrom_cons_of_unanswered rfl ..
  have later (j : Nat) {es : List Entry} (h : AnsweredFrom (s.skip j) 0 es) : AnsweredFrom s j es :=
    (answeredFrom_skip s j 0 es).1 h
  simp only [acquireEvents, List.cons_append, phase, answeredFrom_append, Nat.zero_add, answeredOf_pollEvents]
  refine ⟨answeredFrom_setterRun .., later _ (answeredFrom_setterRun ..), later _ (answeredFrom_pollEvents ..), ?_⟩
  exact (answeredFrom_cons_of_answered rfl ..).2 ⟨rfl, trivial⟩

/-! ## The phases in a log (R25, R171) -/

theorem phasesOf_append (es fs : List Entry) : phasesOf (es ++ fs) = phasesOf es ++ phasesOf fs :=
  List.filterMap_append

@[simp] theorem phasesOf_phase_cons (p : Phase) (es : List Entry) : phasesOf (.phase p :: es) = p :: phasesOf es := rfl

theorem phasesOf_of_events {es : List Entry} (h : ∀ e ∈ es, e.isEvent = true) : phasesOf es = [] := by
  refine List.filterMap_eq_nil_iff.2 fun e he => ?_
  have hev := h e he
  cases e with
  | probe | memRead | memWrite | sleep => rfl
  | phase | response | reset => cases hev

theorem isEvent_of_mem_pollEvents (s : State) (k : Nat) : ∀ e ∈ pollEvents s k, e.isEvent = true :=
  forall_mem_intersperse (p := fun e => Entry.isEvent e = true) rfl (List.forall_mem_map.2 fun _ _ => rfl)

theorem phasesOf_acquireEvents (cyc : BitVec 3) (s : State) (k : Nat) :
    phasesOf (acquireEvents cyc s k) = [.configuringMode, .configuringCycle, .polling, .reading] := by
  have setter (mask want : Word) (s : State) : phasesOf (setterRun mask want s).2 = [] :=
    phasesOf_of_events (isEvent_of_mem_setterRun mask want s)
  have poll (s : State) : phasesOf (pollEvents s k) = [] := phasesOf_of_events (isEvent_of_mem_pollEvents s k)
  have sample (a : Option (List Byte)) : phasesOf [resultRead a] = [] := rfl
  simp [acquireEvents, phasesOf_append, setter, poll, sample]

/-! ## INIT and IS_PRESENT -/

theorem draws_of_probeLoop {n : Nat} {s u : State} {found : Bool} (hp : probeLoop n s = (found, u)) :
    u.draws = s.draws := by
  obtain ⟨-, -, -, -, -, hdr, -⟩ := probeFrom_did n (s.setWork { s.work with pcnt := 0 })
  obtain rfl : (probeLoop n s).2 = u := by rw [hp]
  exact hdr

/-- The entries of a command that makes `k` probe attempts. -/
def probeLog (s : State) (k : Nat) : List Entry :=
  .phase .busy :: (List.range k).map fun j => probeEvent (okAt s j)

theorem ran_busy (s : State) (st : Status) (flag : Option Bool) (rdata : Option (List Byte)) :
    Ran [.phase .busy] s (finish st flag none rdata (s.setPh .busy)) :=
  (did_setPh s .busy).ran le_rfl ..

theorem init_of_next {hv tv : Bool} {s t : State} (h : exec (.init hv tv) s = .next t) :
    ∃ k, Ran (probeLog s k) s t ∧ (∃ p, t.work = { s.work with pcnt := p }) ∧
      (Instr.init hv tv ≠ .init true true → Kept s t) := by
  have run : exec (.init hv tv) s = initWith Config.probeTrials hv tv s := rfl
  rw [run] at h
  cases hgood : hv && tv with
  | false =>
    rw [initWith_bad (by simpa [← Bool.not_and] using hgood)] at h
    cases h
    exact ⟨0, ran_busy .., ⟨_, rfl⟩, fun _ => ⟨rfl, rfl⟩⟩
  | true =>
    obtain ⟨k, u, found, hp, -, hd, hw, -⟩ := probeLoop_did Config.probeTrials ((s.setPh .busy).setBound true)
    rw [initWith_good (by simpa [← Bool.not_and] using hgood) hp] at h
    cases h
    have hdr := draws_of_probeLoop hp
    have hans : okAt ((s.setPh .busy).setBound true) = okAt s := rfl
    have hran : Ran (probeLog s k) s (finish (if found then .ok else .unavailable) (some found) none none
        (u.setAvail found)) :=
      { host := hd.host
        ph := rfl
        log := by simp [hd.log, probeLog, hans]
        env := hd.env
        answered := hd.answered
        draws := by simp [hdr] }
    obtain ⟨rfl, rfl⟩ := (Bool.and_eq_true_iff ..).1 hgood
    exact ⟨k, hran, ⟨k, hw⟩, fun hne => absurd rfl hne⟩

theorem isPresent_of_next {hv : Bool} {s t : State} (h : exec (.isPresent hv) s = .next t) :
    ∃ k, Ran (probeLog s k) s t ∧ (∃ p, t.work = { s.work with pcnt := p }) ∧ Kept s t := by
  have run : exec (.isPresent hv) s = isPresentWith Config.probeTrials hv s := rfl
  rw [run] at h
  cases hv with
  | false =>
    rw [isPresentWith_null] at h
    cases h
    exact ⟨0, ran_busy .., ⟨_, rfl⟩, rfl, rfl⟩
  | true =>
    cases hb : s.bound with
    | false => rw [isPresentWith_unbound _ hb] at h; cases h
    | true =>
      obtain ⟨k, u, found, hp, -, hd, hw, -⟩ := probeLoop_did Config.probeTrials (s.setPh .busy)
      rw [isPresentWith_bound hb hp] at h
      cases h
      have hdr := draws_of_probeLoop hp
      exact ⟨k, ((did_setPh s .busy).trans hd).ran hdr.ge .., ⟨k, hw⟩, hd.avail, hd.bound⟩

/-! ## READ_REGS and WRITE_REGS -/

section
variable {s t : State} {α : Type} {v : α} {rdata : α → Option (List Byte)}

/-- A register command that ended at its argument check. -/
theorem ran_of_argErr {e : Status}
    (h : (Proc.raise (α := α) e (s.setPh .busy)).toOutcome (fun a u => finish .ok none none (rdata a) u) = .next t) :
    Ran [.phase .busy] s t ∧ Kept s t ∧ t.work = s.work := by
  cases h
  exact ⟨ran_busy .., ⟨rfl, rfl⟩, rfl⟩

/-- A register command that issued its one event. -/
theorem ran_of_oneEvent {u : State} {e : Entry} (hd : Did [e] (s.setPh .busy) u) (hw : u.work = s.work)
    (hdr : u.draws = s.draws)
    (h : (if s.answerOk then Proc.ret v u else .raise .xportErr u).toOutcome
      (fun a u => finish .ok none none (rdata a) u) = .next t) :
    Ran [.phase .busy, e] s t ∧ Kept s t ∧ t.work = s.work := by
  have hd' := (did_setPh s .busy).trans hd
  split at h
  all_goals
    cases h
    exact ⟨hd'.ran hdr.ge .., ⟨hd.avail, hd.bound⟩, hw⟩

end

theorem readRegs_of_next {hv bv : Bool} {reg len : Byte} {s t : State}
    (h : exec (.readRegs hv bv reg len) s = .next t) :
    ∃ es, Ran (.phase .busy :: es) s t ∧ Kept s t ∧ t.work = s.work ∧
      (es = [] ∨ es = [.memRead Config.devAddr reg (lenInt len).toNat Config.xferWait
        (readAt s 0 (lenInt len).toNat)]) := by
  have run : exec (.readRegs hv bv reg len) s = (regRead hv bv reg (lenInt len) (s.setPh .busy)).toOutcome
      fun b u => finish .ok none none (some b) u := rfl
  rw [run] at h
  cases ha : argsBad hv bv (lenInt len) with
  | true =>
    rw [regRead_bad ha] at h
    obtain ⟨hran, hkept, hw⟩ := ran_of_argErr h
    exact ⟨[], hran, hkept, hw, .inl rfl⟩
  | false =>
    cases hb : s.bound with
    | false => rw [regRead_unbound (s := s.setPh .busy) ha reg hb] at h; cases h
    | true =>
      rw [regRead_bound (s := s.setPh .busy) ha reg hb] at h
      have hd := did_memRead reg (lenInt len).toNat (s.setPh .busy)
      rw [readAnswer_eq] at hd
      obtain ⟨hran, hkept, hw⟩ := ran_of_oneEvent hd rfl rfl h
      exact ⟨_, hran, hkept, hw, .inr rfl⟩

theorem writeRegs_of_next {hv bv : Bool} {reg len : Byte} {wdata : List Byte} {s t : State}
    (h : exec (.writeRegs hv bv reg len wdata) s = .next t) :
    ∃ es, Ran (.phase .busy :: es) s t ∧ Kept s t ∧ t.work = s.work ∧
      (es = [] ∨ es = [.memWrite Config.devAddr reg (lenInt len).toNat wdata Config.xferWait (okAt s 0)]) := by
  have run : exec (.writeRegs hv bv reg len wdata) s =
      (regWrite hv bv reg (lenInt len) wdata (s.setPh .busy)).toOutcome
        fun _ u => finish .ok none none none u := rfl
  rw [run] at h
  cases ha : argsBad hv bv (lenInt len) with
  | true =>
    rw [regWrite_bad ha] at h
    obtain ⟨hran, hkept, hw⟩ := ran_of_argErr (rdata := fun _ => none) h
    exact ⟨[], hran, hkept, hw, .inl rfl⟩
  | false =>
    cases hb : s.bound with
    | false => rw [regWrite_unbound (s := s.setPh .busy) ha reg wdata hb] at h; cases h
    | true =>
      rw [regWrite_bound (s := s.setPh .busy) ha reg wdata hb] at h
      have hd := did_memWrite reg (lenInt len).toNat wdata (s.setPh .busy)
      rw [← okAt_zero] at hd
      obtain ⟨hran, hkept, hw⟩ := ran_of_oneEvent (rdata := fun _ => none) hd rfl rfl h
      exact ⟨_, hran, hkept, hw, .inr rfl⟩

/-! ## The setters -/

section
variable {i : Instr} {mask want : Word} (hf : setterField i = some (mask, want)) {s t : State}
  (h : exec i s = .next t)
include hf h

theorem setter_null_of_next (ha : argumentBad i = true) : Ran [.phase .busy] s t ∧ Kept s t ∧ t.work = s.work := by
  rw [exec_setter_null hf ha] at h
  cases h
  exact ⟨ran_busy .., ⟨rfl, rfl⟩, rfl⟩

theorem setter_of_next (ha : argumentBad i = false) :
    Ran (.phase .busy :: (setterRun mask want s).2) s t ∧ Kept s t ∧ t.rsp.st = (setterRun mask want s).1 ∧
      s.work.sameBut t.work ∧ SetterLeaves mask want s t.work := by
  have hb : s.bound = true := bound_of_exec_setter hf ha h
  obtain ⟨u, hu, hd, -, hdr, hsame, hleaves⟩ := setField_bound mask want (s := s.setPh .busy) hb
  rw [exec_setter hf ha, hu, toOutcome_ofStatus] at h
  cases h
  exact ⟨((did_setPh s .busy).trans hd).ran hdr.ge .., ⟨hd.avail, hd.bound⟩, rfl, hsame, hleaves⟩

end

/-! ## IS_CONV_DONE -/

theorem isConvDone_of_next {hv : Bool} {s t : State} (h : exec (.isConvDone hv) s = .next t) :
    ∃ es, Ran (.phase .busy :: es) s t ∧ Kept s t ∧
      (∃ rx0 rx1 cfg, t.work = { s.work with rx0 := rx0, rx1 := rx1, cfg := cfg }) ∧
      (es = [] ∨ es = [configRead (readAt s 0 2)]) := by
  have run : exec (.isConvDone hv) s = (convDone hv (s.setPh .busy)).toOutcome
      fun ready u => finish .ok (some ready) none none u := rfl
  rw [run] at h
  cases hv with
  | false =>
    rw [convDone_null] at h
    cases h
    exact ⟨[], ran_busy .., ⟨rfl, rfl⟩, ⟨_, _, _, rfl⟩, .inl rfl⟩
  | true =>
    cases hb : s.bound with
    | false => rw [convDone_unbound (s := s.setPh .busy) hb] at h; cases h
    | true =>
      obtain ⟨u, hc, hd, -, hdr, hw, -⟩ := convDone_bound (s := s.setPh .busy) hb
      rw [hc] at h
      cases h
      exact ⟨_, ((did_setPh s .busy).trans hd).ran hdr.ge .., ⟨hd.avail, hd.bound⟩, hw, .inr rfl⟩

/-! ## GET_TEMP -/

theorem faultsUnbound_of_next {i : Instr} {s t : State} (h : exec i s = .next t) : faultsUnbound i s = false := by
  rcases exec_fault_or_next i s with ⟨-, hexec⟩ | ⟨hf, -⟩
  · rw [hexec] at h; cases h
  · exact hf

theorem getTemp_sentinel_of_next {hv : Bool} {s t : State} (hu : (hv && s.avail) = false)
    (h : exec (.getTemp hv) s = .next t) : Ran [.phase .unavailable] s t ∧ Kept s t ∧ t.work = s.work := by
  rw [exec_getTemp_sentinel ((Bool.and_eq_false_iff ..).1 hu)] at h
  cases h
  exact ⟨(did_setPh s .unavailable).ran le_rfl .., ⟨rfl, rfl⟩, rfl⟩

/-- GET_TEMP on an available and bound handle, with the number `k` of its poll's trials (R160, R162 to R166). -/
theorem exec_getTemp_bound {s : State} (ha : s.avail = true) (hb : s.bound = true) :
    ∃ k t, exec (.getTemp true) s = .next t ∧ 0 < k ∧ k ≤ Config.pollTrials ∧
      Ran (acquireEvents Config.cycForced s k ++ [.phase .converted]) s t ∧ Kept s t ∧
      t.work.pcnt = s.work.pcnt ∧ t.work.wcnt = k ∧
      (∀ j < k - 1, readyAt (s.skip (settersUse Config.cycForced s)) j = false) ∧
      (readyAt (s.skip (settersUse Config.cycForced s)) (k - 1) = true ∨ k = Config.pollTrials) ∧
      t.rsp.st = .ok ∧ t.rsp.tempF = tempF32 t.rsp.tempQ ∧ t.work.raw = t.rsp.tempQ ∧
      (okAt s (settersUse Config.cycForced s + k) = true →
        t.rsp.tempQ = wordAt s (settersUse Config.cycForced s + k)) := by
  obtain ⟨k, u, hq, hpos, hk, hd, -, hpcnt, hwcnt, hall, hlast, hraw, hdr⟩ :=
    acquire_bound Config.extraPollTrials Config.cycForced hb
  have run : exec (.getTemp true) s = (acquire Config.pollTrials Config.cycForced s).toOutcome fun _ u => convert u :=
    getTempWith_acquire (by simp [ha]) ..
  rw [Config.pollTrials, hq] at run
  refine ⟨k, convert u, run, hpos, hk, (hd.trans (did_setPh u .converted)).ran ?_ .., ⟨hd.avail, hd.bound⟩, hpcnt,
    hwcnt, hall, hlast, rfl, rfl, rfl, fun hok => ?_⟩
  · simp [hdr]
  · exact hraw.trans (if_pos hok)

theorem getTemp_of_next {s t : State} (ha : s.avail = true) (h : exec (.getTemp true) s = .next t) :
    ∃ k, 0 < k ∧ k ≤ Config.pollTrials ∧ Ran (acquireEvents Config.cycForced s k ++ [.phase .converted]) s t ∧
      Kept s t ∧ t.work.pcnt = s.work.pcnt := by
  have hb : s.bound = true := by simpa [faultsUnbound, usesBus, isInit, ha] using faultsUnbound_of_next h
  obtain ⟨k, t', ht', hpos, hk, hran, hkept, hpcnt, -⟩ := exec_getTemp_bound ha hb
  rw [h] at ht'
  cases ht'
  exact ⟨k, hpos, hk, hran, hkept, hpcnt⟩

/-! ## Every command -/

/-- What holds of every command that goes on: it logged some `es`, in them the environment's coming answers in order and
its phases, and only INIT with good arguments can have changed `avail` or `bound`. -/
structure RanAs (i : Instr) (es : List Entry) (s t : State) : Prop where
  ran : Ran es s t
  answers : AnsweredFrom s 0 es
  phases : phasesOf es ++ [.idle] = phasesOfCommand i s
  kept : i ≠ .init true true → Kept s t

/-- A command that goes through `BUSY`, logging nothing else but transport events. -/
theorem RanAs.of_busy {i : Instr} {es : List Entry} {s t : State} (hran : Ran (.phase .busy :: es) s t)
    (hans : AnsweredFrom s 0 es) (hev : ∀ e ∈ es, e.isEvent = true) (hi : phasesOfCommand i s = [.busy, .idle])
    (hkept : i ≠ .init true true → Kept s t) : RanAs i (.phase .busy :: es) s t :=
  ⟨hran, (answeredFrom_cons_of_unanswered rfl ..).2 hans, by simp [phasesOf_of_events hev, hi], hkept⟩

theorem RanAs.of_probes {i : Instr} {k : Nat} {s t : State} (hran : Ran (probeLog s k) s t)
    (hi : phasesOfCommand i s = [.busy, .idle]) (hkept : i ≠ .init true true → Kept s t) :
    RanAs i (probeLog s k) s t :=
  .of_busy hran (answeredFrom_map_range (f := fun j => probeEvent (okAt s j)) (fun _ => rfl) (fun _ => rfl) k)
    (List.forall_mem_map.2 fun _ _ => rfl) hi hkept

theorem isEvent_of_isAnswered {e : Entry} (h : e.isAnswered = true) : e.isEvent = true := by
  cases e with
  | probe | memRead | memWrite => rfl
  | sleep | phase | response | reset => cases h

/-- A command that goes through `BUSY` and issues at most one event, answered by the next answer to come. -/
theorem RanAs.of_atMostOne {i : Instr} {es : List Entry} {e : Entry} {s t : State}
    (hran : Ran (.phase .busy :: es) s t) (hes : es = [] ∨ es = [e]) (he : e.isAnswered = true)
    (hans : e.answeredBy s 0) (hi : phasesOfCommand i s = [.busy, .idle]) (hkept : Kept s t) :
    RanAs i (.phase .busy :: es) s t := by
  have hev : ∀ x ∈ [e], x.isEvent = true := by simpa using isEvent_of_isAnswered he
  rcases hes with rfl | rfl
  · exact .of_busy hran trivial (by simp) hi fun _ => hkept
  · exact .of_busy hran ((answeredFrom_cons_of_answered he ..).2 ⟨hans, trivial⟩) hev hi fun _ => hkept

theorem setter_ranAs {i : Instr} {mask want : Word} (hf : setterField i = some (mask, want)) {s t : State}
    (h : exec i s = .next t) (hi : phasesOfCommand i s = [.busy, .idle]) : ∃ es, RanAs i es s t := by
  cases ha : argumentBad i with
  | true =>
    obtain ⟨hran, hkept, -⟩ := setter_null_of_next hf h ha
    exact ⟨_, .of_busy hran trivial (by simp) hi fun _ => hkept⟩
  | false =>
    obtain ⟨hran, hkept, -⟩ := setter_of_next hf h ha
    exact ⟨_, .of_busy hran (answeredFrom_setterRun ..) (isEvent_of_mem_setterRun mask want s) hi fun _ => hkept⟩

theorem getTemp_ranAs {hv : Bool} {s t : State} (h : exec (.getTemp hv) s = .next t) :
    ∃ es, RanAs (.getTemp hv) es s t := by
  cases hu : hv && s.avail with
  | false =>
    obtain ⟨hran, hkept, -⟩ := getTemp_sentinel_of_next hu h
    exact ⟨_, hran, trivial, by simp [phasesOfCommand, hu]; rfl, fun _ => hkept⟩
  | true =>
    obtain ⟨rfl, ha⟩ := (Bool.and_eq_true_iff ..).1 hu
    obtain ⟨k, -, -, hran, hkept, -⟩ := getTemp_of_next ha h
    refine ⟨_, hran, ?_, ?_, fun _ => hkept⟩
    · exact (answeredFrom_append ..).2
        ⟨answeredFrom_acquireEvents .., (answeredFrom_cons_of_unanswered rfl ..).2 trivial⟩
    · simp [phasesOfCommand, ha, phasesOf_append, phasesOf_acquireEvents]; rfl

/-- Every command that does not fault ran in this sense. -/
theorem exec_ranAs {i : Instr} {s t : State} (h : exec i s = .next t) : ∃ es, RanAs i es s t := by
  cases i with
  | init hv tv =>
    obtain ⟨k, hran, -, hkept⟩ := init_of_next h
    exact ⟨_, .of_probes hran rfl hkept⟩
  | isPresent hv =>
    obtain ⟨k, hran, -, hkept⟩ := isPresent_of_next h
    exact ⟨_, .of_probes hran rfl fun _ => hkept⟩
  | readRegs hv bv reg len =>
    obtain ⟨es, hran, hkept, -, hes⟩ := readRegs_of_next h
    exact ⟨_, .of_atMostOne hran hes rfl rfl rfl hkept⟩
  | writeRegs hv bv reg len wdata =>
    obtain ⟨es, hran, hkept, -, hes⟩ := writeRegs_of_next h
    exact ⟨_, .of_atMostOne hran hes rfl rfl rfl hkept⟩
  | setMode hv m => exact setter_ranAs rfl h rfl
  | setCycle hv c => exact setter_ranAs rfl h rfl
  | isConvDone hv =>
    obtain ⟨es, hran, hkept, -, hes⟩ := isConvDone_of_next h
    exact ⟨_, .of_atMostOne hran hes rfl rfl rfl hkept⟩
  | getTemp hv => exact getTemp_ranAs h
  | reserved =>
    cases h
    exact ⟨_, .of_busy (ran_busy ..) trivial (by simp) rfl fun _ => ⟨rfl, rfl⟩⟩

/-! ## The statements about every command -/

/-- A command taken from the port that changes `avail` or `bound` is INIT with good arguments (R21, R22). -/
theorem decode_of_not_kept {c : Command} {s t : State} (h : runCommand c s = .next t) (hkept : ¬ Kept s t) :
    decode c = .ok (.init true true) := by
  cases hc : decode c with
  | error e => cases e; rw [runCommand_of_error hc] at h; cases h
  | ok i =>
    rw [runCommand_of_ok hc] at h
    obtain ⟨es, hran⟩ := exec_ranAs h
    exact congrArg _ (not_not.1 fun hi => hkept (hran.kept hi))

/-- Settles O12: a step that waits changes nothing, and a command other than a good INIT keeps both flags. -/
theorem onlyInitAndResetWriteAvailAndBound : Obligations.OnlyInitAndResetWriteAvailAndBound := by
  intro s t hstep hchanged
  have hkept : ¬ Kept s t := fun ⟨ha, hb⟩ => hchanged.elim (· ha) (· hb)
  have hidle (hreset : ∀ rest, s.host ≠ .reset :: rest) : s.ph = .idle := by
    by_contra hph
    rw [step_of_busy hph hreset] at hstep
    cases hstep
  cases hhost : s.host with
  | nil =>
    rw [step_of_no_input (hidle (by simp [hhost])) hhost] at hstep
    cases hstep
    exact absurd ⟨rfl, rfl⟩ hkept
  | cons input rest =>
    cases input with
    | reset => exact ⟨rest, .inl rfl⟩
    | commandThenReset c k => exact ⟨rest, .inr (.inl ⟨c, k, rfl⟩)⟩
    | command c =>
      rw [step_of_command (hidle (by simp [hhost])) hhost] at hstep
      exact ⟨rest, .inr (.inr ⟨c, rfl, decode_of_not_kept hstep hkept⟩)⟩

/-- Settles O14: what it logged before its one response, and the draw that its response took. -/
theorem everyCommandEndsWithOneResponse : Obligations.EveryCommandEndsWithOneResponse := by
  intro i s hf
  obtain ⟨hfault, -⟩ | ⟨-, t, ht⟩ := exec_fault_or_next i s
  · rw [hf] at hfault; cases hfault
  · obtain ⟨es, hran, -⟩ := exec_ranAs ht
    obtain ⟨es', hadd, hno⟩ := added_of_exec ht
    obtain rfl : es' = es := by simpa [hran.added] using hadd.symm
    exact ⟨t, es', ht, hran.ph, hran.log, hno, hran.draws⟩

/-- Settles O15: after its response a command logs the passage to `IDLE`. -/
theorem commandsPassThroughTheirPhases : Obligations.CommandsPassThroughTheirPhases := by
  intro i s t h
  obtain ⟨es, hran, -, hphases, -⟩ := exec_ranAs h
  rw [hran.added, phasesOf_append, ← hphases]
  rfl

/-- Settles O16: neither the response nor the passage to `IDLE` is answered. -/
theorem answersAreTakenInOrder : Obligations.AnswersAreTakenInOrder := by
  intro i s t h k e he
  obtain ⟨es, hran, hans, -, -⟩ := exec_ranAs h
  have hfilter : (added s t).filter Entry.isAnswered = es.filter Entry.isAnswered := by
    simp [hran.added, Entry.isAnswered]
  rw [hfilter] at he
  simpa using hans.answeredBy_of_getElem? k e he

end Sys2Proof.Machine

/-! INIT, IS_PRESENT, READ_REGS, WRITE_REGS and the reserved range: what INIT records (40_presence_init R110 to R112)
and what these commands leave unchanged (41_register_access R123, R124; 30_encoding R87). -/

namespace Sys2Proof.Machine

/-- INIT with good arguments, given what its probe loop did: the result is recorded, and the handle is bound (R112). -/
theorem exec_init_of_probeLoop {s u : State} {found : Bool} {es : List Entry}
    (hp : probeLoop Config.probeTrials ((s.setPh .busy).setBound true) = (found, u))
    (hd : Did es ((s.setPh .busy).setBound true) u) :
    ∃ t, exec (.init true true) s = .next t ∧ t.bound = true ∧ t.avail = found ∧ t.rsp.flag = found ∧
      t.rsp.st = (if found then .ok else .unavailable) ∧ t.work = u.work ∧
      t.log = s.log ++ .phase .busy :: es ++ [.response t.rsp, .phase .idle] := by
  have run := initWith_good (hv := true) (tv := true) rfl hp
  exact ⟨_, run, hd.bound, rfl, rfl, rfl, rfl, by simp [hd.log]⟩

/-- Settles O25: the argument check, and the two ends of the probe loop. -/
theorem initBindsProbesAndRecords : Obligations.InitBindsProbesAndRecords := by
  refine fun s => ⟨?bad, ?ready, ?notReady⟩
  case bad =>
    intro hv tv h
    have run := initWith_bad (hv := hv) (tv := tv) (by simpa using h) Config.probeTrials s
    exact ⟨_, run, rfl, rfl, rfl, rfl, by simp⟩
  case ready =>
    intro k hk hok hno
    obtain ⟨u, hp, hd, hwork⟩ := probeLoop_ready (s := (s.setPh .busy).setBound true) hk hok hno
    obtain ⟨t, ht, hb, ha, hflag, hst, hw, hlog⟩ := exec_init_of_probeLoop hp hd
    exact ⟨t, ht, hb, ha, hflag, hst, by rw [hw, hwork], by simpa using hlog⟩
  case notReady =>
    intro hno
    obtain ⟨u, hp, hd, hwork⟩ := probeLoop_notReady (s := (s.setPh .busy).setBound true) hno
    obtain ⟨t, ht, hb, ha, hflag, hst, hw, hlog⟩ := exec_init_of_probeLoop hp hd
    exact ⟨t, ht, hb, ha, hflag, hst, by rw [hw, hwork], hlog⟩

theorem isProbe_of_mem_probeLog {s : State} {k : Nat} :
    ∀ e ∈ probeLog s k, e.isEvent = true → e.isProbe = true :=
  List.forall_mem_cons.2 ⟨nofun, List.forall_mem_map.2 fun _ _ _ => rfl⟩

/-- Settles O27: both commands log their probe attempts and write `pcnt`. -/
theorem probeCommandsFrame : Obligations.ProbeCommandsFrame := by
  have probes {k : Nat} {s t : State} (hran : Ran (probeLog s k) s t) :
      ∀ e ∈ eventsOf (added s t), e.isProbe = true := by
    intro e he
    obtain ⟨hmem, hev⟩ := List.mem_filter.1 he
    exact hran.forall_mem_added (p := fun e => e.isEvent = true → e.isProbe = true) isProbe_of_mem_probeLog
      nofun nofun e hmem hev
  rintro i s t (⟨hv, tv, rfl⟩ | ⟨hv, rfl⟩) h
  · obtain ⟨k, hran, hwork, -⟩ := init_of_next h
    exact ⟨hran.commandFrame, hwork, nofun, probes hran⟩
  · obtain ⟨k, hran, hwork, hkept⟩ := isPresent_of_next h
    exact ⟨hran.commandFrame, hwork, fun _ => hkept, probes hran⟩

/-- Settles O30: the error is raised in `BUSY`, with nothing between. -/
theorem reservedAnswersArgumentError : Obligations.ReservedAnswersArgumentError :=
  fun _ => ⟨_, rfl, rfl, rfl, rfl, rfl, rfl, rfl, rfl, rfl, by simp⟩

/-- Settles O31: READ_REGS logs at most a read, WRITE_REGS at most the write it was given. -/
theorem registerCommandsFrame : Obligations.RegisterCommandsFrame := by
  refine fun i s t h => ⟨?read, ?write⟩
  case read =>
    rintro hv bv reg len rfl
    obtain ⟨es, hran, ⟨ha, hb⟩, hwork, hes⟩ := readRegs_of_next h
    refine ⟨hran.commandFrame, ha, hb, hwork, hran.forall_mem_added ?_ rfl rfl⟩
    rcases hes with rfl | rfl <;> simp [Entry.isWrite]
  case write =>
    rintro hv bv reg len wdata rfl
    obtain ⟨es, hran, ⟨ha, hb⟩, hwork, hes⟩ := writeRegs_of_next h
    refine ⟨hran.commandFrame, ha, hb, hwork, fun e he => ?_⟩
    obtain ⟨hmem, hev⟩ := List.mem_filter.1 he
    have hall := hran.forall_mem_added (p := fun e => e.isEvent = true → ∃ ok, e =
      .memWrite Config.devAddr reg (lenInt len).toNat wdata Config.xferWait ok) ?_ nofun nofun
    · exact hall e hmem hev
    · rcases hes with rfl | rfl <;> simp [Entry.isEvent]

end Sys2Proof.Machine

/-! SET_MODE and SET_CYCLE, outcome and frame (42_config_setters R130 to R137). The outcome of both is stated once for
any setter; what is written is the value read with the request ORed in, and only when the first read was answered. -/

namespace Sys2Proof.Machine

/-! ## The outcome -/

section
variable {i : Instr} {mask want : Word} (hf : setterField i = some (mask, want)) (s : State)
include hf

theorem exec_setter_null_outcome (ha : argumentBad i = true) :
    ∃ t, exec i s = .next t ∧ t.rsp.st = .argErr ∧ t.avail = s.avail ∧ t.bound = s.bound ∧ t.work = s.work ∧
      t.log = s.log ++ [.phase .busy, .response t.rsp, .phase .idle] :=
  ⟨_, exec_setter_null hf ha s, rfl, rfl, rfl, rfl, by simp⟩

theorem exec_setter_unbound (ha : argumentBad i = false) (hb : s.bound = false) : exec i s = .fault .unbound := by
  rw [exec_setter hf ha, setField_unbound (s := s.setPh .busy) mask want hb]
  rfl

theorem exec_setter_outcome (ha : argumentBad i = false) (hb : s.bound = true) :
    ∃ t, exec i s = .next t ∧ t.rsp.st = (setterRun mask want s).1 ∧
      t.log = s.log ++ .phase .busy :: (setterRun mask want s).2 ++ [.response t.rsp, .phase .idle] := by
  obtain ⟨t, ht, -⟩ := exec_setter_bound hf ha hb
  obtain ⟨hran, -, hst, -⟩ := setter_of_next hf ht ha
  exact ⟨t, ht, hst, hran.log⟩

end

/-- Settles O32: the setter on the `MODE` field. -/
theorem setModeOutcome : Obligations.SetModeOutcome := by
  refine ⟨fun m => by cases m <;> rfl, fun hv m s => ?_⟩
  have hf : setterField (.setMode hv m) = some (0x0C00, modeBits m) := rfl
  cases hv with
  | false => exact exec_setter_null_outcome hf s rfl
  | true =>
    cases hb : s.bound with
    | false => exact exec_setter_unbound hf s rfl hb
    | true => exact exec_setter_outcome hf s rfl hb

/-- Settles O33: the setter on the `CYC` field. -/
theorem setCycleOutcome : Obligations.SetCycleOutcome := by
  refine ⟨fun c => by revert c; decide, fun hv c s => ?_⟩
  have hf : setterField (.setCycle hv c) = some (0x0380, cycBits c) := rfl
  cases hv with
  | false => exact exec_setter_null_outcome hf s rfl
  | true =>
    cases hb : s.bound with
    | false => exact exec_setter_unbound hf s rfl hb
    | true => exact exec_setter_outcome hf s rfl hb

/-! ## What is written -/

/-- A setter's request lies in its field, so all of it is ORed in (R92, R93). -/
theorem applyField_of_setter {i : Instr} {mask want : Word} (hf : setterField i = some (mask, want)) (cur : Word) :
    applyField cur mask want = cur ||| want := by
  rw [applyField, want_and_mask hf]

/-- Bit 13, data-ready, is in no setter's field (R91, R136). -/
theorem not_mask_getLsbD_13 {i : Instr} {mask want : Word} (hf : setterField i = some (mask, want)) :
    (~~~mask).getLsbD 13 = true := by
  cases i with
  | setMode | setCycle => cases hf; rfl
  | init | isPresent | readRegs | writeRegs | isConvDone | getTemp | reserved => cases hf

theorem eq_configWrite_of_mem_verifyRun {mask want new : Word} {s : State} {k : Nat} {e : Entry}
    (he : e ∈ (verifyRun mask want new s k).2) (hw : e.isWrite = true) : ∃ ok, e = configWrite new ok := by
  unfold verifyRun at he
  split at he
  · exact ⟨_, List.mem_singleton.1 he⟩
  · split at he
    all_goals
      rcases List.mem_cons.1 he with rfl | he
      · exact ⟨_, rfl⟩
      · rw [List.mem_singleton.1 he] at hw; cases hw

/-- The one write of a setter: the value read with the field applied, and only when the first read was answered
(R130). -/
theorem eq_configWrite_of_mem_setterRun {mask want : Word} {s : State} {e : Entry}
    (he : e ∈ (setterRun mask want s).2) (hw : e.isWrite = true) :
    okAt s 0 = true ∧ ∃ ok, e = configWrite (applyField (wordAt s 0) mask want) ok := by
  have notRead (a : Option (List Byte)) : e ≠ configRead a := by rintro rfl; cases hw
  cases h0 : okAt s 0 with
  | false => rw [setterRun_of_fail h0] at he; exact absurd (List.mem_singleton.1 he) (notRead _)
  | true =>
    refine ⟨rfl, ?_⟩
    by_cases hq : wordAt s 0 &&& mask = want
    · rw [setterRun_of_eq h0 hq] at he; exact absurd (List.mem_singleton.1 he) (notRead _)
    · rw [setterRun_of_ne h0 hq] at he
      exact eq_configWrite_of_mem_verifyRun ((List.mem_cons.1 he).resolve_left (notRead _)) hw

/-- What a setter logs as writes, it logs in the run of `setterRun`. -/
theorem mem_setterRun_of_isWrite {i : Instr} {mask want : Word} (hf : setterField i = some (mask, want)) {s t : State}
    (h : exec i s = .next t) {e : Entry} (he : e ∈ added s t) (hw : e.isWrite = true) :
    e ∈ (setterRun mask want s).2 := by
  cases ha : argumentBad i with
  | true =>
    obtain ⟨hran, -⟩ := setter_null_of_next hf h ha
    have hnone := hran.forall_mem_added (p := fun e => e.isWrite = false) (by simp [Entry.isWrite]) rfl rfl e he
    rw [hw] at hnone; cases hnone
  | false =>
    obtain ⟨hran, -⟩ := setter_of_next hf h ha
    refine hran.forall_mem_added (p := fun e => e.isWrite = true → e ∈ (setterRun mask want s).2)
      (List.forall_mem_cons.2 ⟨nofun, fun e he _ => he⟩) nofun nofun e he hw

/-- Settles O36: the bits outside the field, bit 13 among them, are as read, and an OR clears none. -/
theorem settersKeepTheOtherBits : Obligations.SettersKeepTheOtherBits := by
  intro i s t mask want hf h e he hw
  obtain ⟨h0, ok, rfl⟩ := eq_configWrite_of_mem_setterRun (mem_setterRun_of_isWrite hf h he hw) hw
  have houtside := applyField_and_not_mask (wordAt s 0) mask want
  exact ⟨h0, _, ok, rfl, applyField_of_setter hf _, houtside,
    getLsbD_eq_of_and_eq houtside (not_mask_getLsbD_13 hf), applyField_and_cur ..⟩

/-! ## What is left in the working registers -/

/-- Settles O34: `SetterLeaves` of the run, the value written being the value read OR the request. -/
theorem settersLeaveTheirWorkingValues : Obligations.SettersLeaveTheirWorkingValues := by
  intro i s t mask want hf ha h
  obtain ⟨-, -, -, -, hfail, hcur, hsame, hnew⟩ := setter_of_next hf h ha
  refine ⟨hfail, hcur, hsame, fun h0 hq => ?_⟩
  obtain ⟨hval, htx0, htx1, hchk⟩ := hnew h0 hq
  exact ⟨hval.trans (applyField_of_setter hf _), by rw [htx0, htx1], hchk⟩

/-- The block's own writes are of Config (R58). -/
theorem writesConfig_of_isOwnAccess {e : Entry} (h : e.isOwnAccess = true) (hw : e.isWrite = true) :
    e.writesConfig = true := by
  cases e with
  | memWrite dev reg n bytes wait ok =>
    simp only [Entry.isOwnAccess, Bool.and_eq_true] at h
    exact h.2
  | phase | probe | memRead | sleep | response | reset => cases hw

theorem SetterEnds.countP_isWrite_le {mask want : Word} {run : Status × List Entry} (h : SetterEnds mask want run) :
    run.2.countP Entry.isWrite ≤ 1 := by
  cases h <;> simp [configRead, configWrite, Entry.isWrite, List.countP_cons]

theorem countP_isWrite_of_setter {i : Instr} {mask want : Word} (hf : setterField i = some (mask, want)) {s t : State}
    (h : exec i s = .next t) : (added s t).countP Entry.isWrite ≤ 1 := by
  cases ha : argumentBad i with
  | true =>
    obtain ⟨hran, -⟩ := setter_null_of_next hf h ha
    simp [hran.added, Entry.isWrite]
  | false =>
    obtain ⟨hran, -⟩ := setter_of_next hf h ha
    simpa [hran.added, Entry.isWrite] using (setterRun_ends mask want s).countP_isWrite_le

theorem setter_sameBut {i : Instr} {mask want : Word} (hf : setterField i = some (mask, want)) {s t : State}
    (h : exec i s = .next t) : commandFrame s t ∧ Kept s t ∧ s.work.sameBut t.work := by
  cases ha : argumentBad i with
  | true =>
    obtain ⟨hran, hkept, hw⟩ := setter_null_of_next hf h ha
    exact ⟨hran.commandFrame, hkept, by simp [hw, Work.sameBut]⟩
  | false =>
    obtain ⟨hran, hkept, -, hsame, -⟩ := setter_of_next hf h ha
    exact ⟨hran.commandFrame, hkept, hsame⟩

theorem isRegisterAccess_of_setter {i : Instr} {mask want : Word} (hf : setterField i = some (mask, want)) :
    isRegisterAccess i = false := by
  cases hi : isRegisterAccess i with
  | false => rfl
  | true => rw [setterField_of_access hi] at hf; cases hf

/-- Settles O35: the frame of the run, and its writes. -/
theorem settersFrame : Obligations.SettersFrame := by
  intro i s t hsome h
  obtain ⟨⟨mask, want⟩, hf⟩ := Option.ne_none_iff_exists'.1 hsome
  obtain ⟨hframe, ⟨ha, hb⟩, hraw, hcfg, hpcnt, hwcnt⟩ := setter_sameBut hf h
  refine ⟨hframe, ha, hb, hcfg, hraw, hpcnt, hwcnt, fun e he => ?_, countP_isWrite_of_setter hf h⟩
  exact writesConfig_of_isOwnAccess (ownAccessesAreTwoBytes i s t (isRegisterAccess_of_setter hf) h e he)

/-- Settles O40: IS_CONV_DONE logs at most its read of Config. -/
theorem isConvDoneFrame : Obligations.IsConvDoneFrame := by
  intro hv s t h
  obtain ⟨es, hran, ⟨ha, hb⟩, hwork, hes⟩ := isConvDone_of_next h
  refine ⟨hran.commandFrame, ha, hb, hwork, hran.forall_mem_added ?_ rfl rfl⟩
  rcases hes with rfl | rfl <;> simp [configRead, Entry.isWrite]

end Sys2Proof.Machine

/-! GET_TEMP, acquisition, counts and frame (44_temperature R160 to R169), read off `exec_getTemp_bound`. -/

namespace Sys2Proof.Machine

/-- Settles O42: what the acquisition did, then the conversion of the sample it left. -/
theorem getTempAcquiresAndConverts : Obligations.GetTempAcquiresAndConverts := by
  intro s ha hb
  obtain ⟨k, t, ht, hpos, hk, hran, -, -, hwcnt, hall, hlast, hst, htemp, hraw, hsample⟩ := exec_getTemp_bound ha hb
  exact ⟨k, t, ht, hpos, hk, by simpa using hran.log, hall, hlast, hst, htemp, hraw, hwcnt, hsample⟩

/-- Settles O44: the sentinel's branch writes nothing, and the acquisition writes Config only. -/
theorem getTempFrame : Obligations.GetTempFrame := by
  intro hv s t h
  have hwrites : ∀ e ∈ added s t, e.isWrite = true → e.writesConfig = true := fun e he =>
    writesConfig_of_isOwnAccess (ownAccessesAreTwoBytes _ s t rfl h e he)
  cases hu : hv && s.avail with
  | false =>
    obtain ⟨hran, ⟨ha, hb⟩, hwork⟩ := getTemp_sentinel_of_next hu h
    exact ⟨hran.commandFrame, ha, hb, by rw [hwork], fun _ => hwork, hwrites⟩
  | true =>
    obtain ⟨rfl, havail⟩ := (Bool.and_eq_true_iff ..).1 hu
    obtain ⟨k, -, -, hran, ⟨ha, hb⟩, hpcnt⟩ := getTemp_of_next havail h
    exact ⟨hran.commandFrame, ha, hb, hpcnt, nofun, hwrites⟩

/-! ## Event counts (R169) -/

theorem countP_intersperse (p : Entry → Bool) (sep : Entry) (es : List Entry) :
    (es.intersperse sep).countP p = es.countP p + (if p sep then es.length - 1 else 0) := by
  induction es using List.twoStepInduction with
  | nil | singleton => simp
  | cons_cons e f es _ ih =>
    rw [List.intersperse_cons_cons]
    have hrest := ih f
    cases hsep : p sep <;> simp [List.countP_cons, hsep] at hrest ⊢ <;> omega

/-- The poll is `k` reads of Config with a sleep between two. -/
theorem countP_pollEvents {p : Entry → Bool} {c d : Bool} (hc : ∀ b, p (configRead b) = c)
    (hd : p (.sleep Config.pollInterval) = d) (s : State) (k : Nat) :
    (pollEvents s k).countP p = (if c then k else 0) + (if d then k - 1 else 0) := by
  have hreads : ((List.range k).map fun j => configRead (readAt s j 2)).countP p = if c then k else 0 := by
    cases c <;> simp [List.countP_map, Function.comp_def, hc]
  rw [pollEvents, countP_intersperse, hreads, hd, List.length_map, List.length_range]

/-- The acquisition is two setters, the poll and the read of Result, with phases between. -/
theorem countP_acquireEvents (cyc : BitVec 3) (s : State) (k : Nat) :
    ∃ run₁ run₂, SetterEnds modeMask (modeBits .continuous) run₁ ∧ SetterEnds cycMask (cycBits cyc) run₂ ∧
      ∀ {p : Entry → Bool} {c d e : Bool}, (∀ ph, p (.phase ph) = false) → (∀ b, p (configRead b) = c) →
        p (.sleep Config.pollInterval) = d → (∀ b, p (resultRead b) = e) →
        (acquireEvents cyc s k).countP p = run₁.2.countP p + run₂.2.countP p +
          ((if c then k else 0) + (if d then k - 1 else 0)) + (if e then 1 else 0) := by
  refine ⟨_, _, setterRun_ends modeMask (modeBits .continuous) s,
    setterRun_ends cycMask (cycBits cyc) (s.skip (answeredOf (setterRun modeMask (modeBits .continuous) s).2)),
    fun hphase hc hd he => ?_⟩
  simp [acquireEvents, List.countP_append, hphase, countP_pollEvents hc hd, List.countP_cons, he, Nat.add_assoc]

/-- What a setter issues, counted. -/
theorem SetterEnds.counts {mask want : Word} {run : Status × List Entry} (h : SetterEnds mask want run) :
    1 ≤ run.2.countP Entry.readsConfig ∧ run.2.countP Entry.readsConfig ≤ 2 ∧
      run.2.countP Entry.writesConfig ≤ 1 ∧ run.2.countP Entry.readsResult = 0 ∧
      run.2.countP Entry.isSleep = 0 ∧ run.2.countP Entry.isProbe = 0 := by
  cases h <;> simp [configRead, configWrite, Entry.readsConfig, Entry.writesConfig,
    Entry.readsResult, Entry.isSleep, Entry.isProbe, regConfig, regResult]

theorem Ran.countP_added {es : List Entry} {s t : State} (h : Ran es s t) {p : Entry → Bool}
    (hrsp : p (.response t.rsp) = false) (hphase : ∀ ph, p (.phase ph) = false) :
    (Machine.added s t).countP p = es.countP p := by
  simp [h.added, hrsp, hphase]

/-- Settles O43: each count is the sum over the two setters, the poll and the read of Result. -/
theorem getTempEventCounts : Obligations.GetTempEventCounts := by
  intro s t ha h
  obtain ⟨k, hpos, hk, hran, -⟩ := getTemp_of_next ha h
  obtain ⟨run₁, run₂, h₁, h₂, hcount⟩ := countP_acquireEvents Config.cycForced s k
  obtain ⟨hlo₁, hhi₁, hwc₁, hres₁, hsl₁, hpr₁⟩ := h₁.counts
  obtain ⟨hlo₂, hhi₂, hwc₂, hres₂, hsl₂, hpr₂⟩ := h₂.counts
  have hw₁ := h₁.countP_isWrite_le
  have hw₂ := h₂.countP_isWrite_le
  have total (p : Entry → Bool) {c d e : Bool} (hrsp : p (.response t.rsp) = false)
      (hphase : ∀ ph, p (.phase ph) = false) (hc : ∀ b, p (configRead b) = c)
      (hd : p (.sleep Config.pollInterval) = d) (he : ∀ b, p (resultRead b) = e) :
      (added s t).countP p = run₁.2.countP p + run₂.2.countP p +
        ((if c then k else 0) + (if d then k - 1 else 0)) + (if e then 1 else 0) := by
    rw [hran.countP_added hrsp hphase, ← hcount hphase hc hd he]
    simp [hphase]
  have readsConfig := total Entry.readsConfig (c := true) (d := false) (e := false) rfl
    (fun _ => rfl) (fun _ => rfl) rfl fun _ => rfl
  have writesConfig := total Entry.writesConfig (c := false) (d := false) (e := false) rfl
    (fun _ => rfl) (fun _ => rfl) rfl fun _ => rfl
  have writes := total Entry.isWrite (c := false) (d := false) (e := false) rfl
    (fun _ => rfl) (fun _ => rfl) rfl fun _ => rfl
  have readsResult := total Entry.readsResult (c := false) (d := false) (e := true) rfl
    (fun _ => rfl) (fun _ => rfl) rfl fun _ => rfl
  have sleeps := total Entry.isSleep (c := false) (d := true) (e := false) rfl
    (fun _ => rfl) (fun _ => rfl) rfl fun _ => rfl
  have probes := total Entry.isProbe (c := false) (d := false) (e := false) rfl
    (fun _ => rfl) (fun _ => rfl) rfl fun _ => rfl
  simp only [if_true, Bool.false_eq_true, if_false] at readsConfig writesConfig writes readsResult sleeps probes
  omega

end Sys2Proof.Machine

/-! GET_TEMP against the commands that a host would issue by hand (30_encoding R99). `Issued evs s t` says that commands
run one after the other, from `s` to `t`, issued the events `evs`; `pollByHand_bound` is the poll of R164 made of
IS_CONV_DONE. Both polls end at the same trial, and O45 compares the events. -/

namespace Sys2Proof.Machine

/-! ## Commands one after the other -/

/-- From `s` to `t` the events `evs` were issued, one answer was used per answered event, and `bound` did not change. -/
structure Issued (evs : List Entry) (s t : State) : Prop where
  bound : t.bound = s.bound
  log : ∃ es, t.log = s.log ++ es ∧ eventsOf es = evs
  env : t.env = s.env.drop (answeredOf evs)
  answered : t.answered = s.answered + answeredOf evs

theorem eventsOf_append (es fs : List Entry) : eventsOf (es ++ fs) = eventsOf es ++ eventsOf fs :=
  List.filter_append ..

theorem Issued.trans {es fs : List Entry} {s t u : State} (h : Issued es s t) (k : Issued fs t u) :
    Issued (es ++ fs) s u := by
  obtain ⟨es', hes, rfl⟩ := h.log
  obtain ⟨fs', hfs, rfl⟩ := k.log
  exact
    { bound := k.bound.trans h.bound
      log := ⟨es' ++ fs', by rw [hfs, hes, List.append_assoc], eventsOf_append ..⟩
      env := by rw [k.env, h.env, List.drop_drop, answeredOf_append]
      answered := by rw [k.answered, h.answered, answeredOf_append, Nat.add_assoc] }

/-- The environment answers events only. -/
theorem answeredOf_eventsOf (es : List Entry) : answeredOf (eventsOf es) = answeredOf es := by
  rw [answeredOf, eventsOf, List.countP_filter]
  refine List.countP_congr fun e _ => ?_
  cases e <;> simp [Entry.isAnswered, Entry.isEvent]

/-- The events that the environment answers are those that are no sleeps. -/
theorem filter_not_isSleep_eventsOf (es : List Entry) :
    (eventsOf es).filter (fun e => !e.isSleep) = es.filter Entry.isAnswered := by
  rw [eventsOf, List.filter_filter]
  refine List.filter_congr fun e _ => ?_
  cases e <;> rfl

theorem answeredOf_filter_isAnswered (es : List Entry) : answeredOf (es.filter Entry.isAnswered) = answeredOf es := by
  simp [answeredOf, List.countP_eq_length_filter]

/-- Every command but INIT with good arguments issues its events and keeps the binding. -/
theorem issued_of_exec {i : Instr} {s t : State} (h : exec i s = .next t) (hi : i ≠ .init true true) :
    Issued (eventsOf (added s t)) s t := by
  obtain ⟨es, hran, -, -, hkept⟩ := exec_ranAs h
  obtain ⟨-, hlog, henv, hans⟩ := hran.commandFrame
  exact ⟨(hkept hi).2, ⟨_, hlog, rfl⟩, by rw [answeredOf_eventsOf, henv], by rw [answeredOf_eventsOf, hans]⟩

section
variable {evs : List Entry} {s t : State} (h : Issued evs s t)
include h

theorem Issued.eventsOf_added : eventsOf (added s t) = evs := by
  obtain ⟨es, hes, rfl⟩ := h.log
  simp [added, hes]

/-- The coming answers are those after the ones used. -/
theorem Issued.skip_eq : s.skip (answeredOf evs) = { s with env := t.env, answered := t.answered } := by
  simp [State.skip, h.env, h.answered]

theorem Issued.setterRun (mask want : Word) :
    setterRun mask want t = Machine.setterRun mask want (s.skip (answeredOf evs)) := by
  rw [h.skip_eq]; rfl

theorem Issued.okAt (k : Nat) : okAt t k = Machine.okAt (s.skip (answeredOf evs)) k := by
  rw [h.skip_eq]; rfl

theorem Issued.readAt (k n : Nat) : readAt t k n = Machine.readAt (s.skip (answeredOf evs)) k n := by
  rw [h.skip_eq]; rfl

theorem Issued.readyAt (k : Nat) : readyAt t k = Machine.readyAt (s.skip (answeredOf evs)) k := by
  rw [h.skip_eq]; rfl

theorem Issued.bytesAt (k n : Nat) : bytesAt t k n = Machine.bytesAt (s.skip (answeredOf evs)) k n := by
  rw [h.skip_eq]; rfl

end

theorem bytesAt_skip (s : State) (j k n : Nat) : bytesAt (s.skip j) k n = bytesAt s (j + k) n := by
  simp [bytesAt, State.skip_skip]

theorem wordAt_skip (s : State) (j k : Nat) : wordAt (s.skip j) k = wordAt s (j + k) := by
  simp [wordAt, State.skip_skip]

theorem readyAt_skip (s : State) (j k : Nat) : readyAt (s.skip j) k = readyAt s (j + k) := by
  simp [readyAt, okAt_skip, wordAt_skip]

/-! ## The commands of R99 -/

theorem thenRun_next (t : State) (f : State → Host.Outcome State Fault Refusal) : thenRun (.next t) f = f t := rfl

theorem setter_issued {i : Instr} {mask want : Word} (hf : setterField i = some (mask, want))
    (ha : argumentBad i = false) {s : State} (hb : s.bound = true) :
    ∃ t, exec i s = .next t ∧ Issued (setterRun mask want s).2 s t := by
  obtain ⟨t, ht, -, -, hadd⟩ := exec_setter_bound hf ha hb
  have hi : i ≠ .init true true := by rintro rfl; cases hf
  exact ⟨t, ht, (events_of_setter_added hadd).1 ▸ issued_of_exec ht hi⟩

theorem isConvDone_issued {s : State} (hb : s.bound = true) :
    ∃ t, exec (.isConvDone true) s = .next t ∧ Issued [configRead (readAt s 0 2)] s t ∧
      t.rsp.flag = readyAt s 0 := by
  obtain ⟨t, ht, -, hflag, -, hlog⟩ : ∃ t, exec (.isConvDone true) s = .next t ∧ _ := by
    simpa [hb] using isConvDoneOutcome true s
  have hadd : added s t = [.phase .busy, configRead (readAt s 0 2), .response t.rsp, .phase .idle] := by
    simp [added, hlog]
  have hev : eventsOf (added s t) = [configRead (readAt s 0 2)] := by rw [hadd]; rfl
  exact ⟨t, ht, hev ▸ issued_of_exec ht nofun, hflag.trans (readyAt_eq_getLsbD s 0).symm⟩

theorem readResult_issued {s : State} (hb : s.bound = true) :
    ∃ t, exec (.readRegs true true regResult 2) s = .next t ∧ Issued [resultRead (readAt s 0 2)] s t ∧
      (t.rsp.st = .ok → okAt s 0 = true ∧ t.rsp.rdata = bytesAt s 0 2) := by
  have houtcome := readRegsOutcome.2 true true regResult 2 s
  rw [if_neg (by decide), if_neg (by simp [hb])] at houtcome
  obtain ⟨t, ht, -, -, -, hst, hdata, hlog⟩ := houtcome
  have hadd : added s t = [.phase .busy, resultRead (readAt s 0 2), .response t.rsp, .phase .idle] := by
    simp only [added, hlog, List.drop_left]; rfl
  have hev : eventsOf (added s t) = [resultRead (readAt s 0 2)] := by rw [hadd]; rfl
  refine ⟨t, ht, hev ▸ issued_of_exec ht nofun, fun hok => ?_⟩
  have h0 : okAt s 0 = true := by
    by_contra h0
    simp [h0, hok] at hst
  exact ⟨h0, (hdata h0).1⟩

/-- The reads of a poll of `k` trials, without the sleeps. -/
def pollReads (s : State) (k : Nat) : List Entry := (List.range k).map fun j => configRead (readAt s j 2)

theorem pollReads_succ (s : State) (k : Nat) :
    pollReads s (k + 1) = configRead (readAt s 0 2) :: pollReads (s.skip 1) k := by
  simp [pollReads, List.range_succ_eq_map, Function.comp_def, readAt_skip, Nat.add_comm 1]

/-- The trial at which a poll with a budget of `n` ends, `r` saying which trials are ready (R164). -/
def LastTrial (r : Nat → Bool) (n k : Nat) : Prop :=
  0 < k ∧ k ≤ n ∧ (∀ j < k - 1, r j = false) ∧ (r (k - 1) = true ∨ k = n)

/-- A poll ends at the first ready trial or with its budget, so at one trial only. -/
theorem LastTrial.unique {r : Nat → Bool} {n k k' : Nat} (h : LastTrial r n k) (h' : LastTrial r n k') : k = k' := by
  have notBefore {k k' : Nat} (h : LastTrial r n k) (h' : LastTrial r n k') : ¬ k < k' := by
    intro hlt
    obtain ⟨hpos, -, -, hready | rfl⟩ := h
    · obtain ⟨-, -, hall, -⟩ := h'
      simp [hall (k - 1) (by omega)] at hready
    · exact absurd h'.2.1 (by omega)
  exact Nat.le_antisymm (Nat.le_of_not_lt (notBefore h' h)) (Nat.le_of_not_lt (notBefore h h'))

/-- IS_CONV_DONE repeated by hand ends as the poll of R164 does, and reads Config once per trial. -/
theorem pollByHand_bound (n : Nat) {s : State} (hb : s.bound = true) :
    ∃ k t, pollByHand (n + 1) s = .next t ∧ LastTrial (readyAt s) (n + 1) k ∧ Issued (pollReads s k) s t := by
  induction n generalizing s with
  | zero =>
    obtain ⟨t, ht, hiss, -⟩ := isConvDone_issued hb
    exact ⟨1, t, by simp [pollByHand, ht, thenRun], ⟨by omega, by omega, by simp, .inr rfl⟩, hiss⟩
  | succ n ih =>
    obtain ⟨t, ht, hiss, hflag⟩ := isConvDone_issued hb
    cases h0 : readyAt s 0 with
    | true =>
      refine ⟨1, t, ?_, ⟨by omega, by omega, by simp, .inl h0⟩, hiss⟩
      rw [pollByHand, ht]
      simp [thenRun, hflag, h0]
    | false =>
      obtain ⟨k, u, hu, ⟨hpos, hk, hall, hlast⟩, hiss'⟩ := ih (hiss.bound.trans hb)
      have hready (j : Nat) : readyAt t j = readyAt s (j + 1) := by
        rw [hiss.readyAt, readyAt_skip, Nat.add_comm]; rfl
      have hreads : pollReads t k = pollReads (s.skip 1) k :=
        List.map_congr_left fun j _ => congrArg configRead (hiss.readAt j 2)
      refine ⟨k + 1, u, ?_, ⟨by omega, by omega, fun j hj => ?_, ?_⟩, ?_⟩
      · rw [pollByHand, ht]
        simp [thenRun, hflag, h0, hu]
      · cases j with
        | zero => exact h0
        | succ j => rw [← hready]; exact hall j (by omega)
      · rcases hlast with h | h
        · left; rw [hready] at h; rw [← h]; congr 1; omega
        · right; omega
      · rw [pollReads_succ, ← hreads]
        exact hiss.trans hiss'

/-- The events of the two setters of R99, one after the other. -/
def settersEvents (cyc : BitVec 3) (s : State) : List Entry :=
  (setterRun modeMask (modeBits .continuous) s).2 ++
    (setterRun cycMask (cycBits cyc) (s.skip (answeredOf (setterRun modeMask (modeBits .continuous) s).2))).2

/-- The events of the commands of R99 when the poll makes `k` trials: the two setters, the reads of the poll, the read
of Result. -/
def handEvents (cyc : BitVec 3) (s : State) (k : Nat) : List Entry :=
  settersEvents cyc s ++ pollReads (s.skip (settersUse cyc s)) k ++ [resultRead (readAt s (settersUse cyc s + k) 2)]

theorem answeredOf_settersEvents (cyc : BitVec 3) (s : State) : answeredOf (settersEvents cyc s) = settersUse cyc s :=
  answeredOf_append ..

theorem answeredOf_pollReads (s : State) (k : Nat) : answeredOf (pollReads s k) = k := by
  simp [pollReads, answeredOf, List.countP_map, Function.comp_def, configRead, Entry.isAnswered]

theorem setters_issued (cyc : BitVec 3) {s : State} (hb : s.bound = true) :
    ∃ t u, exec (.setMode true .continuous) s = .next t ∧ exec (.setCycle true cyc) t = .next u ∧
      Issued (settersEvents cyc s) s u := by
  obtain ⟨t, ht, h₁⟩ := setter_issued (i := .setMode true .continuous) rfl rfl hb
  obtain ⟨u, hu, h₂⟩ := setter_issued (i := .setCycle true cyc) rfl rfl (h₁.bound.trans hb)
  rw [h₁.setterRun] at h₂
  exact ⟨t, u, ht, hu, h₁.trans h₂⟩

theorem acquireByHand_bound {s : State} (hb : s.bound = true) :
    ∃ k u, acquireByHand s = .next u ∧
      LastTrial (readyAt (s.skip (settersUse Config.cycForced s))) Config.pollTrials k ∧
      Issued (handEvents Config.cycForced s k) s u ∧
      (u.rsp.st = .ok → okAt s (settersUse Config.cycForced s + k) = true ∧
        u.rsp.rdata = bytesAt s (settersUse Config.cycForced s + k) 2) := by
  obtain ⟨t₁, t₂, ht₁, ht₂, h₂⟩ := setters_issued Config.cycForced hb
  have huse := answeredOf_settersEvents Config.cycForced s
  have hready : readyAt t₂ = readyAt (s.skip (settersUse Config.cycForced s)) :=
    funext fun j => huse ▸ h₂.readyAt j
  have hreads (k : Nat) : pollReads t₂ k = pollReads (s.skip (settersUse Config.cycForced s)) k :=
    List.map_congr_left fun j _ => congrArg configRead (huse ▸ h₂.readAt j 2)
  obtain ⟨k, t₃, ht₃, hlast, h₃⟩ : ∃ k t, pollByHand Config.pollTrials t₂ = .next t ∧ _ :=
    pollByHand_bound Config.extraPollTrials (h₂.bound.trans hb)
  rw [hready] at hlast
  rw [hreads] at h₃
  have h₂₃ := h₂.trans h₃
  have huse₃ : answeredOf (settersEvents Config.cycForced s ++ pollReads (s.skip (settersUse Config.cycForced s)) k) =
      settersUse Config.cycForced s + k := by
    rw [answeredOf_append, huse, answeredOf_pollReads]
  obtain ⟨u, hu, h₄, hdata⟩ := readResult_issued (h₂₃.bound.trans hb)
  rw [h₂₃.readAt, huse₃, readAt_skip] at h₄
  rw [h₂₃.okAt, h₂₃.bytesAt, huse₃, okAt_skip, bytesAt_skip] at hdata
  refine ⟨k, u, ?_, hlast, h₂₃.trans h₄, hdata⟩
  rw [acquireByHand, ht₁, thenRun_next, ht₂, thenRun_next, ht₃, thenRun_next, hu]

/-! ## GET_TEMP against them -/

theorem SetterEnds.filter_isAnswered {mask want : Word} {run : Status × List Entry} (h : SetterEnds mask want run) :
    run.2.filter Entry.isAnswered = run.2 := by
  cases h <;> rfl

theorem filter_isAnswered_pollEvents (s : State) (k : Nat) :
    (pollEvents s k).filter Entry.isAnswered = pollReads s k := by
  have dropSleeps (es : List Entry) : (es.intersperse (.sleep Config.pollInterval)).filter Entry.isAnswered =
      es.filter Entry.isAnswered := by
    induction es using List.twoStepInduction with
    | nil | singleton => rfl
    | cons_cons e f es _ ih => simp [List.filter_cons, ih f, Entry.isAnswered]
  rw [pollEvents, dropSleeps]
  exact List.filter_eq_self.2 (List.forall_mem_map.2 fun _ _ => rfl)

/-- The answered events of the acquisition are the events of the commands by hand. -/
theorem filter_isAnswered_acquireEvents (cyc : BitVec 3) (s : State) (k : Nat) :
    (acquireEvents cyc s k).filter Entry.isAnswered = handEvents cyc s k := by
  have setter (mask want : Word) (s : State) : (setterRun mask want s).2.filter Entry.isAnswered =
      (setterRun mask want s).2 := (setterRun_ends mask want s).filter_isAnswered
  have phase (p : Phase) (es : List Entry) :
      (Entry.phase p :: es).filter Entry.isAnswered = es.filter Entry.isAnswered := rfl
  have sample (a : Option (List Byte)) : [resultRead a].filter Entry.isAnswered = [resultRead a] := rfl
  simp only [acquireEvents, handEvents, settersEvents, List.cons_append, phase, List.filter_append, setter,
    filter_isAnswered_pollEvents, sample, List.append_assoc]

/-- Settles O45: both polls end at the same trial, so both issue the events of `handEvents` and use their answers. -/
theorem getTempMatchesTheCommandsByHand : Obligations.GetTempMatchesTheCommandsByHand := by
  intro s ha hb
  obtain ⟨k, t, ht, hpos, hk, hran, -, -, -, hall, hlast, -, -, -, hsample⟩ := exec_getTemp_bound ha hb
  obtain ⟨k', u, hu, hlast', hiss, hdata⟩ := acquireByHand_bound hb
  obtain rfl : k = k' := LastTrial.unique ⟨hpos, hk, hall, hlast⟩ hlast'
  have hevents : (acquireEvents Config.cycForced s k ++ [Entry.phase .converted]).filter Entry.isAnswered =
      handEvents Config.cycForced s k := by
    simp [filter_isAnswered_acquireEvents, Entry.isAnswered]
  have hcount := answeredOf_filter_isAnswered (acquireEvents Config.cycForced s k ++ [.phase .converted])
  rw [hevents] at hcount
  refine ⟨t, u, ht, hu, ?events, ?env, ?answered, fun hok => ?sample⟩
  case events =>
    rw [filter_not_isSleep_eventsOf, hiss.eventsOf_added, hran.added, List.filter_append, hevents]
    exact List.append_nil _
  case env => rw [hran.env, hiss.env, hcount]
  case answered => rw [hran.answered, hiss.answered, hcount]
  case sample =>
    obtain ⟨h0, hbytes⟩ := hdata hok
    exact ⟨_, _, hbytes, hsample h0⟩

end Sys2Proof.Machine

/-! What no command reads (10_state R21, R26, R28). `Alike W A s s'` says that two states differ in `avail`, the
response and the working registers at most, the working registers being equal when `W` and `avail` when `A`; every
operation keeps that, and `exec_alike` says it of every command. O23 is read off it with `W`, O24 with `A`. -/

namespace Sys2Proof.Machine

/-! ## The relation and the updates -/

/-- The two states are equal but for the response, for the working registers unless `W`, and for `avail` unless `A`. -/
structure Alike (W A : Prop) (s s' : State) : Prop where
  avail : A → s'.avail = s.avail
  work : W → s'.work = s.work
  bound : s'.bound = s.bound
  ph : s'.ph = s.ph
  host : s'.host = s.host
  env : s'.env = s.env
  answered : s'.answered = s.answered
  draws : s'.draws = s.draws
  log : s'.log = s.log

section
variable {W A : Prop} {s s' : State} (h : Alike W A s s')
include h

theorem Alike.record (e : Entry) : Alike W A (s.record e) (s'.record e) :=
  { h with log := by simp [h.log] }

theorem Alike.setPh (p : Phase) : Alike W A (s.setPh p) (s'.setPh p) :=
  { h with ph := rfl, log := by simp [h.log] }

theorem Alike.setBound (v : Bool) : Alike W A (s.setBound v) (s'.setBound v) :=
  { h with bound := rfl }

/-- Whatever `avail` was, it is the same once it is written. -/
theorem Alike.setAvail (A' : Prop) (v : Bool) : Alike W A' (s.setAvail v) (s'.setAvail v) :=
  { h with avail := fun _ => rfl }

theorem Alike.setWork {w w' : Work} (hw : W → w' = w) : Alike W A (s.setWork w) (s'.setWork w') :=
  { h with work := hw }

/-- The same change of the working registers on both sides. -/
theorem Alike.mapWork (f : Work → Work) : Alike W A (s.setWork (f s.work)) (s'.setWork (f s'.work)) :=
  h.setWork fun hW => by rw [h.work hW]

theorem Alike.tookDraw : Alike W A s.tookDraw s'.tookDraw :=
  { h with draws := by simp [h.draws] }

theorem Alike.popAnswer : Alike W A s.popAnswer s'.popAnswer :=
  { h with env := by simp [h.env], answered := by simp [h.answered] }

theorem Alike.answerOk_eq : s'.answerOk = s.answerOk := by
  simp only [State.answerOk, h.env, h.answered]

theorem Alike.answerBytes_eq (n : Nat) : s'.answerBytes n = s.answerBytes n := by
  have hbyte : s'.answerByte = s.answerByte := funext fun i => by simp only [State.answerByte, h.env, h.answered]
  rw [State.answerBytes, hbyte, State.answerBytes]

theorem Alike.memRead (reg : Byte) (n : Nat) : Alike W A (memRead reg n s).2 (memRead reg n s').2 := by
  have hread : s'.readAnswer n = s.readAnswer n := by
    simp only [State.readAnswer, h.answerOk_eq, h.answerBytes_eq]
  have hrec := h.popAnswer.record (.memRead Config.devAddr reg n Config.xferWait (s.readAnswer n))
  simpa only [Machine.memRead, hread] using hrec

theorem Alike.memWrite (reg : Byte) (n : Nat) (b : List Byte) :
    Alike W A (memWrite reg n b s).2 (memWrite reg n b s').2 := by
  have hrec := h.popAnswer.record (.memWrite Config.devAddr reg n b Config.xferWait s.answerOk)
  simpa only [Machine.memWrite, h.answerOk_eq] using hrec

theorem Alike.probe : (probe s').1 = (probe s).1 ∧ Alike W A (probe s).2 (probe s').2 := by
  have hrec := h.popAnswer.record (.probe Config.devAddr Config.probeTimeout s.answerOk)
  exact ⟨h.answerOk_eq, by simpa only [Machine.probe, h.answerOk_eq] using hrec⟩

end

/-! ## Procedures -/

/-- Two procedures that end alike: with the same value in states related by `R`, with the same error in states related
by `B`, or with the same fault. -/
inductive Proc.Rel {α : Type} (R B : State → State → Prop) : Proc α → Proc α → Prop where
  | ret (v : α) {s s' : State} (h : R s s') : Proc.Rel R B (.ret v s) (.ret v s')
  | raise (e : Status) {s s' : State} (h : B s s') : Proc.Rel R B (.raise e s) (.raise e s')
  | fault (f : Fault) : Proc.Rel R B (.fault f) (.fault f)

theorem Proc.Rel.andThen {α β : Type} {R R' B : State → State → Prop} {p p' : Proc α} (hp : p.Rel R B p')
    {f f' : α → State → Proc β} (hf : ∀ v s s', R s s' → (f v s).Rel R' B (f' v s')) :
    (p.andThen f).Rel R' B (p'.andThen f') := by
  cases hp with
  | ret v h => exact hf v _ _ h
  | raise e h => exact .raise e h
  | fault f => exact .fault f

/-- Two procedures begun in states alike that end alike, and in states alike. -/
abbrev Proc.SameEnd {α : Type} (W A : Prop) (p p' : Proc α) : Prop := p.Rel (Alike W A) (Alike W A) p'

section
variable {W A : Prop} {s s' : State} (h : Alike W A s s')
include h

theorem regRead_sameEnd (hv bv : Bool) (reg : Byte) (len : Int) :
    (regRead hv bv reg len s).SameEnd W A (regRead hv bv reg len s') := by
  cases ha : argsBad hv bv len with
  | true => rw [regRead_bad ha, regRead_bad ha]; exact .raise _ h
  | false =>
    cases hb : s.bound with
    | false => rw [regRead_unbound ha reg hb, regRead_unbound ha reg (h.bound.trans hb)]; exact .fault _
    | true =>
      rw [regRead_bound ha reg hb, regRead_bound ha reg (h.bound.trans hb), h.answerOk_eq, h.answerBytes_eq]
      split
      · exact .ret _ (h.memRead reg _)
      · exact .raise _ (h.memRead reg _)

theorem regWrite_sameEnd (hv bv : Bool) (reg : Byte) (len : Int) (b : List Byte) :
    (regWrite hv bv reg len b s).SameEnd W A (regWrite hv bv reg len b s') := by
  cases ha : argsBad hv bv len with
  | true => rw [regWrite_bad ha, regWrite_bad ha]; exact .raise _ h
  | false =>
    cases hb : s.bound with
    | false => rw [regWrite_unbound ha reg b hb, regWrite_unbound ha reg b (h.bound.trans hb)]; exact .fault _
    | true =>
      rw [regWrite_bound ha reg b hb, regWrite_bound ha reg b (h.bound.trans hb), h.answerOk_eq]
      split
      · exact .ret _ (h.memWrite reg _ b)
      · exact .raise _ (h.memWrite reg _ b)

theorem readPair_sameEnd (hv : Bool) (reg : Byte) : (readPair hv reg s).SameEnd W A (readPair hv reg s') :=
  (regRead_sameEnd h hv true reg 2).andThen fun b _ _ hu =>
    .ret _ (hu.mapWork fun w => { w with rx0 := b.getD 0 0, rx1 := b.getD 1 0 })

theorem writePair_sameEnd (hv : Bool) (reg : Byte) (v : Word) :
    (writePair hv reg v s).SameEnd W A (writePair hv reg v s') :=
  regWrite_sameEnd (h.mapWork fun w => { w with tx0 := hiByte v, tx1 := loByte v }) hv true reg 2 _

/-- The verifying half of a setter reads `cur`, which its first half has written. -/
theorem writeAndVerify_sameEnd (hcur : s'.work.cur = s.work.cur) (hv : Bool) (mask want : Word) :
    (writeAndVerify hv mask want s).SameEnd W A (writeAndVerify hv mask want s') := by
  rw [writeAndVerify, writeAndVerify, hcur]
  have hnew := h.mapWork fun w => { w with new := applyField s.work.cur mask want }
  refine (writePair_sameEnd hnew hv regConfig _).andThen fun _ t t' ht => ?_
  refine (readPair_sameEnd ht hv regConfig).andThen fun v u u' hu => ?_
  have hchk := hu.mapWork fun w => { w with chk := v }
  dsimp only
  split
  · exact .ret _ hchk
  · exact .raise _ hchk

theorem setField_sameEnd (hv : Bool) (mask want : Word) :
    (setField hv mask want s).SameEnd W A (setField hv mask want s') := by
  refine (readPair_sameEnd h hv regConfig).andThen fun v t t' ht => ?_
  have hcur := ht.mapWork fun w => { w with cur := v }
  dsimp only
  split
  · exact .ret _ hcur
  · exact writeAndVerify_sameEnd hcur rfl hv mask want

theorem convDone_sameEnd (hv : Bool) : (convDone hv s).SameEnd W A (convDone hv s') := by
  have hread := readPair_sameEnd h hv regConfig
  unfold convDone
  generalize readPair hv regConfig s = p at hread
  generalize readPair hv regConfig s' = p' at hread
  cases hread with
  | ret v ht => exact .ret _ (ht.mapWork fun w => { w with cfg := v })
  | raise e ht => exact .ret _ ht
  | fault f => exact .fault f

end

theorem probeFrom_succ (n : Nat) (s : State) :
    probeFrom (n + 1) s =
      if (probe (s.setWork { s.work with pcnt := s.work.pcnt + 1 })).1 then
        (true, (probe (s.setWork { s.work with pcnt := s.work.pcnt + 1 })).2)
      else probeFrom n (probe (s.setWork { s.work with pcnt := s.work.pcnt + 1 })).2 := by
  rw [probeFrom]
  rcases probe (s.setWork { s.work with pcnt := s.work.pcnt + 1 }) with ⟨_ | _, t⟩ <;> rfl

theorem probeFrom_alike {W A : Prop} (n : Nat) {s s' : State} (h : Alike W A s s') :
    (probeFrom n s').1 = (probeFrom n s).1 ∧ Alike W A (probeFrom n s).2 (probeFrom n s').2 := by
  induction n generalizing s s' with
  | zero => exact ⟨rfl, h⟩
  | succ n ih =>
    obtain ⟨hready, hnext⟩ := (h.mapWork fun w => { w with pcnt := w.pcnt + 1 }).probe
    rw [probeFrom_succ, probeFrom_succ, hready]
    split
    · exact ⟨rfl, hnext⟩
    · exact ih hnext

theorem pollFrom_sameEnd {W A : Prop} (n : Nat) {s s' : State} (h : Alike W A s s') :
    (pollFrom n s).SameEnd W A (pollFrom n s') := by
  induction n generalizing s s' with
  | zero => exact .ret _ h
  | succ n ih =>
    refine (convDone_sameEnd (h.mapWork fun w => { w with wcnt := w.wcnt + 1 }) true).andThen fun ready t t' ht => ?_
    split
    · exact .ret _ ht
    · exact ih (ht.record _)

section
variable {W A : Prop} {s s' : State} (h : Alike W A s s')
include h

theorem probeLoop_alike (n : Nat) :
    (probeLoop n s').1 = (probeLoop n s).1 ∧ Alike W A (probeLoop n s).2 (probeLoop n s').2 :=
  probeFrom_alike n (h.mapWork fun w => { w with pcnt := 0 })

theorem poll_sameEnd (n : Nat) : (poll n s).SameEnd W A (poll n s') :=
  pollFrom_sameEnd n ((h.setPh .polling).mapWork fun w => { w with wcnt := 0 })

/-- The sample read leaves the same `raw` whatever it held. -/
theorem readSample_rel :
    (readSample s).Rel (fun t t' => Alike W A t t' ∧ t'.work.raw = t.work.raw) (Alike W A) (readSample s') := by
  have hread := readPair_sameEnd (h.setPh .reading) true regResult
  unfold readSample
  generalize readPair true regResult (s.setPh .reading) = p at hread
  generalize readPair true regResult (s'.setPh .reading) = p' at hread
  cases hread with
  | ret v ht => exact .ret _ ⟨ht.mapWork fun w => { w with raw := v }, rfl⟩
  | @raise e t t' ht =>
    have hraw := ht.tookDraw.mapWork fun w => { w with raw := Config.any16 t.draws }
    exact .ret _ ⟨by simpa [ht.draws] using hraw, by simp [ht.draws]⟩
  | fault f => exact .fault f

end

theorem Proc.Rel.dropOutcome {R : State → State → Prop} {p p' : Proc Unit} (hp : p.Rel R R p') :
    p.dropOutcome.Rel R R p'.dropOutcome := by
  cases hp with
  | ret v h => exact .ret _ h
  | raise e h => exact .ret _ h
  | fault f => exact .fault f

theorem acquire_rel {W A : Prop} {s s' : State} (h : Alike W A s s') (n : Nat) (cyc : BitVec 3) :
    (acquire n cyc s).Rel (fun t t' => Alike W A t t' ∧ t'.work.raw = t.work.raw) (Alike W A) (acquire n cyc s') := by
  refine (setField_sameEnd (h.setPh .configuringMode) true _ _).dropOutcome.andThen fun _ _ _ h₁ => ?_
  refine (setField_sameEnd (h₁.setPh .configuringCycle) true _ _).dropOutcome.andThen fun _ _ _ h₂ => ?_
  exact (poll_sameEnd h₂ n).andThen fun _ _ _ h₃ => readSample_rel h₃

/-! ## Commands -/

/-- Two outcomes alike: the same stop, or states alike with the same response. -/
inductive SameOutcome (W A : Prop) :
    Host.Outcome State Fault Refusal → Host.Outcome State Fault Refusal → Prop where
  | next {t t' : State} (h : Alike W A t t') (hrsp : t'.rsp = t.rsp) : SameOutcome W A (.next t) (.next t')
  | fault (f : Fault) : SameOutcome W A (.fault f) (.fault f)

/-- The response is made of the fields given and of free values at the draw counter, so nothing of the old one is
left. -/
theorem Alike.finish {W A : Prop} {s s' : State} (h : Alike W A s s') (st : Status) (flag : Option Bool)
    (temp : Option (BitVec 32 × Word)) (rdata : Option (List Byte)) :
    SameOutcome W A (.next (finish st flag temp rdata s)) (.next (finish st flag temp rdata s')) :=
  .next { h with ph := rfl, draws := by simp [h.draws], log := by simp [h.log, h.draws] } (by simp [h.draws])

theorem Proc.Rel.toOutcome {α : Type} {W A : Prop} {R : State → State → Prop} {p p' : Proc α}
    (hp : p.Rel R (Alike W A) p') {onRet : α → State → State}
    (hr : ∀ v s s', R s s' → SameOutcome W A (.next (onRet v s)) (.next (onRet v s'))) :
    SameOutcome W A (p.toOutcome onRet) (p'.toOutcome onRet) := by
  cases hp with
  | ret v h => exact hr v _ _ h
  | raise e h => exact h.finish e none none none
  | fault f => exact .fault f

section
variable {W A : Prop} {s s' : State} (h : Alike W A s s')
include h

/-- INIT with good arguments writes `avail`, so `avail` is then equal whether it was or not (R112). -/
theorem init_good_sameOutcome (A' : Prop) :
    SameOutcome W A' (exec (.init true true) s) (exec (.init true true) s') := by
  have hloop := probeLoop_alike ((h.setPh .busy).setBound true) Config.probeTrials
  rcases hp : probeLoop Config.probeTrials ((s.setPh .busy).setBound true) with ⟨found, u⟩
  rcases hp' : probeLoop Config.probeTrials ((s'.setPh .busy).setBound true) with ⟨found', u'⟩
  rw [hp, hp'] at hloop
  obtain ⟨rfl, hu⟩ := hloop
  have run (s : State) : exec (.init true true) s = initWith Config.probeTrials true true s := rfl
  rw [run, run, initWith_good rfl hp, initWith_good rfl hp']
  exact (hu.setAvail A' found').finish ..

theorem init_bad_sameOutcome {hv tv : Bool} (ha : (!hv || !tv) = true) :
    SameOutcome W A (exec (.init hv tv) s) (exec (.init hv tv) s') := by
  have run (s : State) : exec (.init hv tv) s = .next (raiseError .argErr (s.setPh .busy)) :=
    initWith_bad ha Config.probeTrials s
  rw [run, run]
  exact (h.setPh .busy).finish ..

theorem isPresent_sameOutcome (hv : Bool) : SameOutcome W A (exec (.isPresent hv) s) (exec (.isPresent hv) s') := by
  have run (s : State) : exec (.isPresent hv) s = isPresentWith Config.probeTrials hv s := rfl
  rw [run, run]
  cases hv with
  | false => exact (h.setPh .busy).finish ..
  | true =>
    cases hb : s.bound with
    | false => rw [isPresentWith_unbound _ hb, isPresentWith_unbound _ (h.bound.trans hb)]; exact .fault _
    | true =>
      have hloop := probeLoop_alike (h.setPh .busy) Config.probeTrials
      rcases hp : probeLoop Config.probeTrials (s.setPh .busy) with ⟨found, u⟩
      rcases hp' : probeLoop Config.probeTrials (s'.setPh .busy) with ⟨found', u'⟩
      rw [hp, hp'] at hloop
      obtain ⟨rfl, hu⟩ := hloop
      rw [isPresentWith_bound hb hp, isPresentWith_bound (h.bound.trans hb) hp']
      exact hu.finish ..

theorem getTemp_sameOutcome (hv : Bool) (hA : A) : SameOutcome W A (exec (.getTemp hv) s) (exec (.getTemp hv) s') := by
  have run (s : State) : exec (.getTemp hv) s = getTempWith Config.pollTrials Config.cycForced hv s := rfl
  rw [run, run]
  cases hbranch : !hv || !s.avail with
  | true =>
    rw [getTempWith_sentinel hbranch, getTempWith_sentinel (by rw [h.avail hA, hbranch])]
    exact (h.setPh .unavailable).finish ..
  | false =>
    rw [getTempWith_acquire hbranch, getTempWith_acquire (by rw [h.avail hA, hbranch])]
    refine (acquire_rel h _ _).toOutcome fun _ t t' ⟨ht, hraw⟩ => ?_
    rw [convert, convert, hraw]
    exact (ht.setPh .converted).finish ..

/-- From states alike, every command does the same; GET_TEMP when `avail` is equal too. -/
theorem exec_alike (i : Instr) (hA : isGetTemp i = true → A) : SameOutcome W A (exec i s) (exec i s') := by
  have busy := h.setPh .busy
  cases i with
  | init hv tv =>
    cases ha : !hv || !tv with
    | true => exact init_bad_sameOutcome h ha
    | false =>
      obtain ⟨rfl, rfl⟩ : hv = true ∧ tv = true := by simpa using ha
      exact init_good_sameOutcome h A
  | isPresent hv => exact isPresent_sameOutcome h hv
  | readRegs hv bv reg len =>
    exact (regRead_sameEnd busy hv bv reg (lenInt len)).toOutcome fun b _ _ ht => ht.finish .ok none none (some b)
  | writeRegs hv bv reg len wdata =>
    exact (regWrite_sameEnd busy hv bv reg (lenInt len) wdata).toOutcome fun _ _ _ ht => ht.finish .ok none none none
  | setMode hv m =>
    exact (setField_sameEnd busy hv modeMask (modeBits m)).toOutcome fun _ _ _ ht => ht.finish .ok none none none
  | setCycle hv c =>
    exact (setField_sameEnd busy hv cycMask (cycBits c)).toOutcome fun _ _ _ ht => ht.finish .ok none none none
  | isConvDone hv =>
    exact (convDone_sameEnd busy hv).toOutcome fun ready _ _ ht => ht.finish .ok (some ready) none none
  | getTemp hv => exact getTemp_sameOutcome h hv (hA rfl)
  | reserved => exact busy.finish .argErr none none none

end

/-! ## The statements -/

theorem Alike.eq_setWork {W : Prop} {t t' : State} (h : Alike W True t t') (hrsp : t'.rsp = t.rsp) :
    t' = t.setWork t'.work := by
  obtain ⟨havail, -, hbound, hph, hhost, henv, hans, hdraws, hlog⟩ := h
  rw [State.setWork, ← havail trivial, ← hbound, ← hph, ← hrsp, ← hhost, ← henv, ← hans, ← hdraws, ← hlog]

theorem Alike.eq_setAvail {A : Prop} {t t' : State} (h : Alike True A t t') (hrsp : t'.rsp = t.rsp) :
    t' = t.setAvail t'.avail := by
  obtain ⟨-, hwork, hbound, hph, hhost, henv, hans, hdraws, hlog⟩ := h
  rw [State.setAvail, ← hwork trivial, ← hbound, ← hph, ← hrsp, ← hhost, ← henv, ← hans, ← hdraws, ← hlog]

theorem alike_setAvail (s : State) (b : Bool) : Alike True False s (s.setAvail b) :=
  ⟨nofun, fun _ => rfl, rfl, rfl, rfl, rfl, rfl, rfl, rfl⟩

theorem alike_setWork_setRsp (s : State) (w : Work) (r : Rsp) : Alike False True s ((s.setWork w).setRsp r) :=
  ⟨fun _ => rfl, nofun, rfl, rfl, rfl, rfl, rfl, rfl, rfl⟩

/-- A command that keeps `avail` and does not read it does the same whatever it is. -/
theorem exec_setAvail {i : Instr} (hget : isGetTemp i = false) (hi : i ≠ .init true true) (s : State) (b : Bool) :
    exec i (s.setAvail b) = mapNext (fun t => t.setAvail b) (exec i s) := by
  have hsame := exec_alike (alike_setAvail s b) i (by simp [hget])
  generalize exec i s = o at hsame
  cases ho' : exec i (s.setAvail b) with
  | next t' =>
    rw [ho'] at hsame
    cases hsame with
    | next h hrsp =>
      obtain ⟨es, hran⟩ := exec_ranAs ho'
      obtain ⟨havail, -⟩ := hran.kept hi
      rw [h.eq_setAvail hrsp, havail]
      rfl
  | fault f => rw [ho'] at hsame; cases hsame; rfl
  | refused r => rw [ho'] at hsame; cases hsame

/-- Settles O23: only GET_TEMP reads `avail`, and INIT with good arguments overwrites it. -/
theorem availMattersOnlyToGetTemp : Obligations.AvailMattersOnlyToGetTemp := by
  refine ⟨fun i s b hget hi => ?_, fun s b => ?_, fun hv tv s b hbad => ?_⟩
  · exact exec_setAvail hget (by rintro rfl; cases hi) s b
  · have hsame := init_good_sameOutcome (alike_setAvail s b) True
    generalize exec (.init true true) s = o at hsame ⊢
    generalize exec (.init true true) (s.setAvail b) = o' at hsame ⊢
    cases hsame with
    | next h hrsp =>
      have heq := h.eq_setAvail hrsp
      rw [h.avail trivial] at heq
      exact congrArg _ heq
    | fault f => rfl
  · exact exec_setAvail rfl (by rintro ⟨⟩; cases hbad) s b

/-- Settles O24: from states alike but for the working registers and the response the outcomes are alike. -/
theorem workAndResponseAreNeverRead : Obligations.WorkAndResponseAreNeverRead := by
  intro i s w r
  have hsame := exec_alike (alike_setWork_setRsp s w r) i fun _ => trivial
  generalize exec i s = o at hsame ⊢
  generalize exec i ((s.setWork w).setRsp r) = o' at hsame ⊢
  cases hsame with
  | next h hrsp => exact ⟨_, congrArg _ (h.eq_setWork hrsp)⟩
  | fault f => exact ⟨w, rfl⟩

end Sys2Proof.Machine
